-- ==== Sys2Proof/Word.lean ====
section
/-! DEFINITION. The words of the seeding front-end: bytes, the 128-bit sample, the 17-bit transaction word, 16-byte arrays,
and the entropy-source kind (00_scope.md R6, R7; 30_encoding.md R71, R74). -/

namespace Sys2Proof

/-- `UInt8` of 00_scope.md R6. -/
abbrev Byte := BitVec 8

/-- `UInt128` of 00_scope.md R6. -/
abbrev Sample := BitVec 128

/-- A format-T word, 17 bits (30_encoding.md R71). -/
abbrev TWord := BitVec 17

/-- A byte array `B[0..15]`: exactly 16 bytes, index 0 first (00_scope.md R7). -/
abbrev Bytes16 := Vector Byte 16

/-- The array whose element `i` is `f i`. -/
def lanes {α : Type} (f : Fin 16 → α) : Vector α 16 :=
  #v[f 0, f 1, f 2, f 3, f 4, f 5, f 6, f 7, f 8, f 9, f 10, f 11, f 12, f 13, f 14, f 15]

/-- `[0x00] * 16`. -/
def zeros16 : Bytes16 := lanes fun _ => 0#8

/-- EntropySourceKind, the closed enumeration that the field K encodes (30_encoding.md R74). -/
inductive Kind where
  /-- K = 0: the source is the clock port. -/
  | time
  /-- K = 1: the source is the address port. -/
  | address
  deriving DecidableEq, Repr

end Sys2Proof
end

