-- ==== Sys2Proof/Config.lean ====
section
/-! DEFINITION. What an implementation fixes (the parameters of 00_scope.md R5) and the free values (the draws of R9). -/

namespace Sys2Proof

/-- `PERM`, the shuffle network's permutation: output position j takes input position `map[j]` (00_scope.md R5).
A map that is not a bijection is refused: no value of this type can be built from it (41_entropy_capture.md R101). On 16
positions an injective map is a bijection. -/
structure Perm where
  map : Vector (Fin 16) 16
  injective : ∀ i j : Fin 16, map[i] = map[j] → i = j
  deriving DecidableEq, Repr

/-- The parameters that the datapath depends on (00_scope.md R5, 10_state.md R42), each with its legal values. -/
structure Params where
  /-- `ADDR_W`, the width of the platform address. -/
  addrW : Nat
  addrW_legal : 1 ≤ addrW ∧ addrW ≤ 128
  /-- `PERM`. -/
  perm : Perm
  deriving DecidableEq, Repr

/-- What the two input ports show in one step (10_state.md R39). Of `addrSrc` the low `ADDR_W` bits are the port
`addr_src[ADDR_W-1:0]`; the others are no lines of the port (notes/assumptions/7.md, DESIGN CHOICE, safe). -/
structure Ports where
  clkOk : Bool
  clkNs : Sample
  addrSrc : Sample
  deriving DecidableEq, Repr

/-- FREE VALUE: whether the clock reports a duration at the n-th turn for which nothing else is known
(41_entropy_capture.md R104, 93_implementation_defined.md U5). -/
opaque Config.clkOk : Nat → Bool

/-- FREE VALUE: the nanosecond count the clock port shows at the n-th turn (41_entropy_capture.md R104, U5, U6). -/
opaque Config.clkNs : Nat → Sample

/-- FREE VALUE: what the address port shows at the n-th turn (41_entropy_capture.md R105, U7). -/
opaque Config.addrSrc : Nat → Sample

/-- `EPOCH` in nanoseconds of some outside time scale: any instant; no rule depends on it (00_scope.md R5, U4). -/
opaque Config.epoch : Int

/-- `CMD_LATENCY` less one unit, so that every value gives a positive duration (00_scope.md R5, U12). -/
opaque Config.cmdLatencyPred : Nat

/-- `CMD_LATENCY`: any positive duration; no rule depends on it (70_reset_and_hazards.md R189). -/
def Config.cmdLatency : Nat := Config.cmdLatencyPred + 1

/-- `ENGINE`, the external generator (42_generator_factory.md R130): four deterministic functions over its own states. A claim
about generators takes an engine as an argument; no step of the SFE reads one. `sampleUniform` answers only for
`low < high`, with a value of `[low, high)`: a call with `low >= high` is refused (R137, 93_implementation_defined.md U9). R130 leaves open the type T of its answer and the
type of low and high: that both are natural numbers is the model's choice (notes/assumptions/10.md, DESIGN CHOICE, safe). -/
structure Config.Engine where
  EngineState : Type
  seedFromBytes : Bytes16 → EngineState
  nextU32 : EngineState → BitVec 32 × EngineState
  nextU64 : EngineState → BitVec 64 × EngineState
  sampleUniform : (low high : Nat) → low < high → EngineState → { v : Nat // low ≤ v ∧ v < high } × EngineState

end Sys2Proof
end

