-- ==== Sys2Proof/Syntax.lean ====
section
/-! DEFINITION. The instructions: the host transactions and the commands, one constructor per row of spec/opcode_table.json. -/

namespace Sys2Proof

/-- A decoded transaction (30_encoding.md R75). The SFE is no instruction-set processor: its instructions are the host's byte
reads and writes and the commands written to CMD (00_scope.md R1). -/
inductive Instr where
  /-- Host read of one register byte (40_host_bus.md R91). -/
  | rd8 (off : Byte)
  /-- Host write of one register byte, `off` not 0x31 (40_host_bus.md R92). -/
  | wr8 (off data : Byte)
  /-- Command byte 0x00 (40_host_bus.md R94). -/
  | nop
  /-- Command bytes 0x01 and 0x11 (41_entropy_capture.md R106). -/
  | sample (k : Kind)
  /-- Command byte 0x02 (41_entropy_capture.md R107). -/
  | convert
  /-- Command byte 0x03 (41_entropy_capture.md R109). -/
  | permute
  /-- Command byte 0x04 (41_entropy_capture.md R110). -/
  | unpermute
  /-- Command bytes 0x05 and 0x15 (41_entropy_capture.md R108). -/
  | capture (k : Kind)
  /-- Command bytes 0x06 and 0x16 (41_entropy_capture.md R111). -/
  | seedgen (k : Kind)
  /-- Command byte 0x07 (42_generator_factory.md R131). -/
  | handoff
  /-- Command bytes 0x08 and 0x18 (42_generator_factory.md R132). -/
  | create (k : Kind)
  deriving DecidableEq, Repr

end Sys2Proof
end

