-- ==== Sys2Proof/WellFormed.lean ====
section
/-! DEFINITION. Which terms of `Instr` stand for a word: a WR8 whose offset is CMD does not, since that word is a command
(40_host_bus.md R92, R93). -/

namespace Sys2Proof

/-- The instruction has an encoding. Every operand is a value of its field's width by its type; the one check left is that a
WR8 is not a write to CMD (offset 0x31). -/
abbrev Instr.WellFormed : Instr → Prop
  | .wr8 off _ => off ≠ 0x31#8
  | _ => True

end Sys2Proof
end

