-- ==== Sys2Proof/Decode.lean ====
section
/-! DEFINITION. Decoding of format-T words and format-C bytes (30_encoding.md R70 to R78), then the encoder written from the
same tables, and the pseudo-instructions (R80). -/

namespace Sys2Proof

/-! ### Format C -/

/-- The nine commands of 30_encoding.md R73. -/
inductive Command where
  | nop
  | sample (k : Kind)
  | convert
  | permute
  | unpermute
  | capture (k : Kind)
  | seedgen (k : Kind)
  | handoff
  | create (k : Kind)
  deriving DecidableEq, Repr

/-- The row of the opcode table that a command is. -/
def commandInstr : Command → Instr
  | .nop => .nop
  | .sample k => .sample k
  | .convert => .convert
  | .permute => .permute
  | .unpermute => .unpermute
  | .capture k => .capture k
  | .seedgen k => .seedgen k
  | .handoff => .handoff
  | .create k => .create k

/-- The field K as a kind: 0 is time-based, 1 is memory-address-based (30_encoding.md R74). -/
def kindOf (kbit : Bool) : Kind := if kbit then .address else .time

/-- The opcode map of 30_encoding.md R75: `none` is `IllegalCommand`. The byte's fields are RSV = 7:5, K = 4, OP = 3:0. -/
def decodeCommand (d : Byte) : Option Command :=
  let rsv := d.extractLsb' 5 3
  let k := d.getLsbD 4
  if rsv ≠ 0#3 then none
  else
    match (d.extractLsb' 0 4).toNat with
    | 0x0 => if k then none else some .nop
    | 0x1 => some (.sample (kindOf k))
    | 0x2 => if k then none else some .convert
    | 0x3 => if k then none else some .permute
    | 0x4 => if k then none else some .unpermute
    | 0x5 => some (.capture (kindOf k))
    | 0x6 => some (.seedgen (kindOf k))
    | 0x7 => if k then none else some .handoff
    | 0x8 => some (.create (kindOf k))
    | _ => none

/-! ### Format T -/

/-- Bus offset of CMD (20_memory.md R51). -/
def cmdOffset : Byte := 0x31#8

/-- What a format-T word is: an instruction, or a write of an illegal command byte, rejected by name (30_encoding.md R75,
R77). What the illegal byte then does is the fault ILLEGAL_COMMAND, which `Machine.step` takes. -/
inductive Decoded where
  | instr (i : Instr)
  | illegalCommand (d : Byte)
  deriving DecidableEq, Repr

/-- The decode procedure of 30_encoding.md R75, total on all 17-bit words: W = 16, OFF = 15:8, DATA = 7:0. -/
def decode (w : TWord) : Decoded :=
  let off := w.extractLsb' 8 8
  let data := w.extractLsb' 0 8
  if w.getLsbD 16 then
    if off = cmdOffset then
      match decodeCommand data with
      | some c => .instr (commandInstr c)
      | none => .illegalCommand data
    else .instr (.wr8 off data)
  else .instr (.rd8 off)

/-- The instruction that the decoder reads from a word given as a number, bit 0 the word's least significant bit. The SFE's
unit is one 17-bit word, not bytes, so bits above 16 are no bits of it: a number with one of them set is no format-T word
(notes/assumptions/13.md, DESIGN CHOICE, safe). -/
def decodeTableWord (nbits w : Nat) : Option Instr :=
  let v := w % 2 ^ nbits
  if v < 2 ^ 17 then
    match decode (BitVec.ofNat 17 v) with
    | .instr i => some i
    | .illegalCommand _ => none
  else none

/-! ### The encoder -/

/-- The bit K of a kind (30_encoding.md R74). -/
def kindBit : Kind → BitVec 1
  | .time => 0#1
  | .address => 1#1

/-- `RSV << 5 | K << 4 | OP` with RSV = 000 (30_encoding.md R72). -/
def formatC (k : BitVec 1) (op : BitVec 4) : Byte := 0#3 ++ k ++ op

/-- The command byte of a command: the column OP of 30_encoding.md R73, K = 0 for a command that takes no kind. -/
def commandByte : Command → Byte
  | .nop => formatC 0#1 0x0#4
  | .sample k => formatC (kindBit k) 0x1#4
  | .convert => formatC 0#1 0x2#4
  | .permute => formatC 0#1 0x3#4
  | .unpermute => formatC 0#1 0x4#4
  | .capture k => formatC (kindBit k) 0x5#4
  | .seedgen k => formatC (kindBit k) 0x6#4
  | .handoff => formatC 0#1 0x7#4
  | .create k => formatC (kindBit k) 0x8#4

/-- `W << 16 | OFF << 8 | DATA` (30_encoding.md R71). -/
def formatT (w : BitVec 1) (off data : Byte) : TWord := w ++ off ++ data

/-- The word that writes the command byte `d` to CMD. -/
def commandWord (d : Byte) : TWord := formatT 1#1 cmdOffset d

/-- The word of an instruction (30_encoding.md R71, R73). A read's DATA is written as 0. -/
def encode : Instr → TWord
  | .rd8 off => formatT 0#1 off 0#8
  | .wr8 off data => formatT 1#1 off data
  | .nop => commandWord (commandByte .nop)
  | .sample k => commandWord (commandByte (.sample k))
  | .convert => commandWord (commandByte .convert)
  | .permute => commandWord (commandByte .permute)
  | .unpermute => commandWord (commandByte .unpermute)
  | .capture k => commandWord (commandByte (.capture k))
  | .seedgen k => commandWord (commandByte (.seedgen k))
  | .handoff => commandWord (commandByte .handoff)
  | .create k => commandWord (commandByte (.create k))

/-- The columns `mask` and `match` of an instruction's row of spec/opcode_table.json (30_encoding.md R73). -/
def tableRow : Instr → TWord × TWord
  | .rd8 _ => (0x10000#17, 0x00000#17)
  | .wr8 _ _ => (0x10000#17, 0x10000#17)
  | .nop => (0x1FFFF#17, 0x13100#17)
  | .sample _ => (0x1FFEF#17, 0x13101#17)
  | .convert => (0x1FFFF#17, 0x13102#17)
  | .permute => (0x1FFFF#17, 0x13103#17)
  | .unpermute => (0x1FFFF#17, 0x13104#17)
  | .capture _ => (0x1FFEF#17, 0x13105#17)
  | .seedgen _ => (0x1FFEF#17, 0x13106#17)
  | .handoff => (0x1FFFF#17, 0x13107#17)
  | .create _ => (0x1FFEF#17, 0x13108#17)

/-! ### Pseudo-instructions -/

/-- The pseudo-instructions of 30_encoding.md R80. They have no encodings of their own. -/
inductive Pseudo where
  | created
  | capclk
  | capaddr
  | seedclk
  | seedaddr
  | cmd (d : Byte)
  | wrraw (bytes : Bytes16)
  | rdraw
  | rdseed
  | rdsmp
  | rdstat
  deriving DecidableEq, Repr

/-- The sixteen element indexes in order. -/
def allLanes : List (Fin 16) := [0, 1, 2, 3, 4, 5, 6, 7, 8, 9, 10, 11, 12, 13, 14, 15]

/-- `rd8` of 16 consecutive offsets from `base`. -/
def readRow (base : Byte) : List TWord :=
  allLanes.map fun i => encode (.rd8 (base + BitVec.ofNat 8 i.val))

/-- The words a pseudo-instruction expands to, in order (30_encoding.md R80). -/
def expandPseudo : Pseudo → List TWord
  | .created => [encode (.create .time)]
  | .capclk => [encode (.capture .time)]
  | .capaddr => [encode (.capture .address)]
  | .seedclk => [encode (.seedgen .time)]
  | .seedaddr => [encode (.seedgen .address)]
  | .cmd d => [commandWord d]
  | .wrraw bytes => allLanes.map fun i => encode (.wr8 (BitVec.ofNat 8 i.val) bytes[i])
  | .rdraw => readRow 0x00#8
  | .rdseed => readRow 0x10#8
  | .rdsmp => readRow 0x20#8
  | .rdstat => [encode (.rd8 0x30#8)]

end Sys2Proof
end

