-- ==== Sys2Proof/Machine/Datapath.lean ====
section
/-! DEFINITION. The datapath functions: the big-endian converter, the shuffle network, its inverse, the address extension, and
the default parameters (41_entropy_capture.md R100 to R105, 00_scope.md R5). -/

namespace Sys2Proof.Machine

/-- Element k of the converter's output: shift right by 120 - 8k, mask the low 8 bits, truncate (41_entropy_capture.md R100). -/
def beByte (v : Sample) (k : Fin 16) : Byte :=
  ((v >>> (120 - 8 * k.val)) &&& 0xFF#128).setWidth 8

/-- `be_bytes`: byte 0 is the most significant (41_entropy_capture.md R100, 90_conflicts.md C1). -/
def beBytes (v : Sample) : Bytes16 := lanes (beByte v)

/-- The inverse of `be_bytes`: `RAW[0] ++ RAW[1] ++ ... ++ RAW[15]` (41_entropy_capture.md R100). -/
def ofBeBytes (b : Bytes16) : Sample :=
  b[0] ++ b[1] ++ b[2] ++ b[3] ++ b[4] ++ b[5] ++ b[6] ++ b[7] ++
    b[8] ++ b[9] ++ b[10] ++ b[11] ++ b[12] ++ b[13] ++ b[14] ++ b[15]

/-- Byte k of SMP on the bus: SMP[127-8k : 120-8k] (20_memory.md R51, R53). -/
def smpByte (v : Sample) (k : Fin 16) : Byte := v.extractLsb' (120 - 8 * k.val) 8

/-- The shuffle network, a gather: output j takes input `PERM[j]` (41_entropy_capture.md R101). -/
def shuffle (p : Perm) (r : Bytes16) : Bytes16 := lanes fun j => r[p.map[j]]

/-- `PERM_INV[i]`: the j with `PERM[j] = i` (41_entropy_capture.md R103). It exists, since PERM is a bijection. -/
def permInv (p : Perm) (i : Fin 16) : Fin 16 := (allLanes.find? fun j => p.map[j] = i).getD 0

/-- The inverse network (41_entropy_capture.md R103). -/
def unshuffle (p : Perm) (s : Bytes16) : Bytes16 := lanes fun i => s[permInv p i]

/-- `zext_128` of the `ADDR_W`-bit address (41_entropy_capture.md R105, 90_conflicts.md C4). -/
def zextAddr (addrW : Nat) (a : Sample) : Sample := (a.setWidth addrW).setWidth 128

/-- `PERM_DEFAULT` (41_entropy_capture.md R102). -/
def permDefault : Perm where
  map := #v[15, 0, 14, 1, 13, 2, 12, 3, 11, 4, 10, 5, 9, 6, 8, 7]
  injective := by decide

/-- The parameters' defaults (00_scope.md R5). -/
def paramsDefault : Params where
  addrW := 64
  addrW_legal := by decide
  perm := permDefault

end Sys2Proof.Machine
end

