-- ==== Sys2Proof/Machine/State.lean ====
section
/-! DEFINITION. The state of the seeding front-end (10_state.md R20 to R42), the model's own record of the agents around it, the
reasons a step could stop, and the state after reset. -/

namespace Sys2Proof.Machine

/-- One `Seeded` event: the 16 bytes handed to the engine (00_scope.md R9). -/
structure Seeded where
  bytes : Bytes16
  deriving DecidableEq, Repr

/-- What the outside does to the SFE in one turn: a host transaction, or an assertion of the reset input
(70_reset_and_hazards.md R180). -/
inductive HostAct where
  | transact (w : TWord)
  | reset
  deriving DecidableEq, Repr

/-- One turn of the outside: the act, and what the input ports show in that step, where that is known. With `none` they show
free values (notes/assumptions/2.md, DESIGN CHOICE, safe). -/
structure Turn where
  act : HostAct
  ports : Option Ports
  deriving DecidableEq, Repr

/-- The machine's state. The fields down to `engSeedStb` are the spec's; the rest are the model's own. -/
structure State where
  /-- SMP (10_state.md R22). -/
  smp : Sample
  /-- RAW (10_state.md R23). -/
  raw : Bytes16
  /-- SEED (10_state.md R24). -/
  seed : Bytes16
  /-- STATUS (10_state.md R25); its bits are named in Machine/Flags.lean. -/
  status : Byte
  /-- CAUSE (10_state.md R32). -/
  cause : Byte
  /-- FINFO (10_state.md R33). -/
  finfo : Byte
  /-- OUT, oldest event first (10_state.md R20). -/
  out : List Seeded
  /-- The output port's lanes `eng_seed[0..15]` (10_state.md R40): the seed while the strobe is high, else 0x00
  (42_generator_factory.md R135; notes/assumptions/5.md, DEDUCED, unsafe). -/
  engSeed : Bytes16
  /-- The output port's one-step strobe `eng_seed_stb` (10_state.md R40; notes/assumptions/5.md). -/
  engSeedStb : Bool
  /-- The parameters, changed by nothing (10_state.md R42; notes/assumptions/6.md, DESIGN CHOICE, safe). -/
  params : Params
  /-- What the input ports show in this step (10_state.md R39; notes/assumptions/2.md). -/
  ports : Ports
  /-- The turns not yet taken, in order (20_memory.md R59; notes/assumptions/1.md, DESIGN CHOICE, safe). -/
  pending : List Turn
  /-- What the host's reads returned, oldest first (00_scope.md R11; notes/assumptions/3.md, DESIGN CHOICE, safe). -/
  reads : List Byte
  /-- What the engine latched off its port, oldest first (00_scope.md R10; notes/assumptions/4.md, DESIGN CHOICE, safe). -/
  engineRx : List Seeded
  /-- The index of the next free port values (notes/assumptions/2.md). -/
  tick : Nat
  deriving DecidableEq, Repr

/-- Why a step would stop the machine: never. Every fault of the SFE is a next state with STATUS.FAULT = 1, in which the host
may go on reading (60_exceptions.md R157, R158; notes/assumptions/8.md, DEDUCED, safe). -/
inductive Fault where
  deriving DecidableEq, Repr

/-- Why a step would refuse an instruction. -/
inductive Refusal where
  /-- Raised by an arm of `exec` for an instruction that has no meaning yet; no arm does. Safe: the machine stops. -/
  | notModelled (mnemonic : String)
  deriving DecidableEq, Repr

/-- What a step answers. -/
abbrev Result := Host.Outcome State Fault Refusal

/-- The machine right after reset (10_state.md R41, 70_reset_and_hazards.md R180), with the default parameters (00_scope.md R5),
nothing pending, and the agents' records empty. The ports' value is read by no step (notes/assumptions/2.md). -/
def State.reset : State where
  smp := 0#128
  raw := zeros16
  seed := zeros16
  status := 0x00#8
  cause := 0x00#8
  finfo := 0x00#8
  out := []
  engSeed := zeros16
  engSeedStb := false
  params := paramsDefault
  ports := { clkOk := false, clkNs := 0#128, addrSrc := 0#128 }
  pending := []
  reads := []
  engineRx := []
  tick := 0

end Sys2Proof.Machine
end

