-- ==== Sys2Proof/Machine/Flags.lean ====
section
/-! DEFINITION. The fields of STATUS (10_state.md R25 to R31) and the one way each flag is read and written. -/

namespace Sys2Proof.Machine

/-- The named bits of STATUS; bit 6 is reserved and has no name (10_state.md R25). -/
inductive StatusBit where
  | smpV
  | rawV
  | seedV
  | engSeeded
  | addrUsed
  | smpKind
  | fault
  deriving DecidableEq, Repr

/-- The column `bit` of 10_state.md R25. -/
def bitPos : StatusBit → Nat
  | .smpV => 0
  | .rawV => 1
  | .seedV => 2
  | .engSeeded => 3
  | .addrUsed => 4
  | .smpKind => 5
  | .fault => 7

/-- The STATUS byte with only bit `b` set. -/
def bitMask (b : StatusBit) : Byte := 1#8 <<< bitPos b

def getBit (st : Byte) (b : StatusBit) : Bool := st.getLsbD (bitPos b)

def setBit (st : Byte) (b : StatusBit) (v : Bool) : Byte :=
  if v then st ||| bitMask b else st &&& ~~~(bitMask b)

/-- What a read of STATUS shows: bit 6 is hardwired to 0 (10_state.md R25; notes/assumptions/9.md, DEDUCED, safe). -/
def statusRead (st : Byte) : Byte := st &&& 0xBF#8

/-- A flag of the state. -/
def State.flag (s : State) (b : StatusBit) : Bool := getBit s.status b

/-- `STATUS.b <- v`. -/
def State.withFlag (s : State) (b : StatusBit) (v : Bool) : State := { s with status := setBit s.status b v }

/-- SMP_KIND of a kind: 0 time-based, 1 memory-address-based (10_state.md R25). -/
def smpKindOf : Kind → Bool
  | .time => false
  | .address => true

/-- The flags a SAMPLE stage of kind k writes: ADDR_USED for K = 1, SMP_V, SMP_KIND <- K (41_entropy_capture.md R106). -/
def State.flagsSampled (s : State) (k : Kind) : State :=
  let s1 := match k with
    | .time => s
    | .address => s.withFlag .addrUsed true
  (s1.withFlag .smpV true).withFlag .smpKind (smpKindOf k)

/-- The flags HANDOFF writes (42_generator_factory.md R131). -/
def State.flagsHandedOff (s : State) : State :=
  ((((s.withFlag .engSeeded true).withFlag .smpV false).withFlag .rawV false).withFlag .seedV false).withFlag .smpKind false

end Sys2Proof.Machine
end

