-- ==== Sys2Proof/Machine/Operands.lean ====
section
/-! DEFINITION. The operands: the register that a bus offset names (20_memory.md R51) and the byte a read of it gives. -/

namespace Sys2Proof.Machine

/-- What stands at a bus offset (20_memory.md R51). -/
inductive RegName where
  | raw (i : Fin 16)
  | seed (j : Fin 16)
  | smp (k : Fin 16)
  | status
  | cmd
  | cause
  | finfo
  | reserved
  deriving DecidableEq, Repr

/-- The low four bits of an offset: the element index within a row of 16. -/
def rowIndex (off : Byte) : Fin 16 := ⟨off.toNat % 16, Nat.mod_lt _ (by decide)⟩

/-- The register map of 20_memory.md R51. -/
def regOf (off : Byte) : RegName :=
  if off.toNat < 0x10 then .raw (rowIndex off)
  else if off.toNat < 0x20 then .seed (rowIndex off)
  else if off.toNat < 0x30 then .smp (rowIndex off)
  else if off = 0x30#8 then .status
  else if off = cmdOffset then .cmd
  else if off = 0x32#8 then .cause
  else if off = 0x33#8 then .finfo
  else .reserved

/-- The byte a register shows, `none` where the map's read column says ILLEGAL_READ (20_memory.md R51, 40_host_bus.md R91). -/
def State.regRead (s : State) : RegName → Option Byte
  | .raw i => some s.raw[i]
  | .seed j => some s.seed[j]
  | .smp k => some (smpByte s.smp k)
  | .status => some (statusRead s.status)
  | .cmd => none
  | .cause => some s.cause
  | .finfo => some s.finfo
  | .reserved => none

/-- The byte that a read of a bus offset gives: the model's read of one byte of the register space. -/
def State.regByte (s : State) (off : Byte) : Option Byte := s.regRead (regOf off)

end Sys2Proof.Machine
end

