-- ==== Sys2Proof/Machine/Ops.lean ====
section
/-! DEFINITION. The shared operations: taking a fault, leaving it by reset, running a command's stages, and what a read returns
(60_exceptions.md R151 to R160, 70_reset_and_hazards.md R180). -/

namespace Sys2Proof.Machine

/-- The fault causes (60_exceptions.md R151). -/
inductive Cause where
  | clockUnavailable
  | illegalCommand
  | illegalRead
  | illegalWrite
  | noData
  deriving DecidableEq, Repr

/-- The codes of 60_exceptions.md R151. -/
def causeCode : Cause → Byte
  | .clockUnavailable => 0x01#8
  | .illegalCommand => 0x02#8
  | .illegalRead => 0x03#8
  | .illegalWrite => 0x04#8
  | .noData => 0x05#8

/-- Fault entry, `raise Fault(cause, info)`: FAULT, CAUSE and FINFO, nothing else (60_exceptions.md R157). -/
def takeFault (c : Cause) (info : Byte) (s : State) : State :=
  { s.withFlag .fault true with cause := causeCode c, finfo := info }

/-- STATUS.FAULT = 1 (60_exceptions.md R158). -/
def State.halted (s : State) : Bool := s.flag .fault

/-- The way out of a fault, and the only one: reset (60_exceptions.md R159, 70_reset_and_hazards.md R180, R181). Every state
element takes its reset value. The parameters (10_state.md R42), the input ports, the turns to come and what the host and the
engine have received are not the SFE's, and stay (notes/assumptions/11.md, DESIGN CHOICE, safe). -/
def takeReset (s : State) : State :=
  { State.reset with
    params := s.params
    ports := s.ports
    pending := s.pending
    reads := s.reads
    engineRx := s.engineRx
    tick := s.tick }

/-- A stage of a command: the state it leaves, or the fault it raises (41_entropy_capture.md, "Commands"). -/
abbrev Stage := State → Except Cause State

/-- Stages in order: the second runs on what the first leaves; a fault ends the command (60_exceptions.md R160). -/
def thenStage (f g : Stage) : Stage := fun s =>
  match f s with
  | .ok t => g t
  | .error c => .error c

/-- A command with command byte `d`, in one atomic step (20_memory.md R57): ignored while halted (60_exceptions.md R158);
a fault in a stage is taken from the state before the command, so no earlier stage is kept (R157). -/
def runCommand (d : Byte) (stage : Stage) (s : State) : State :=
  if s.halted then s
  else
    match stage s with
    | .ok t => t
    | .error c => takeFault c d s

/-- The stage that raises a fault. -/
def raiseStage (c : Cause) : Stage := fun _ => .error c

/-- A write of an illegal command byte (60_exceptions.md R153, 40_host_bus.md R93). -/
def illegalCommand (d : Byte) (s : State) : State := runCommand d (raiseStage .illegalCommand) s

/-- The host's read returns `b` (00_scope.md R9, R11). -/
def returnByte (b : Byte) (s : State) : State := { s with reads := s.reads ++ [b] }

/-- What follows a transaction when it answers a next state. -/
def onNext (f : State → State) : Result → Result
  | .next s => .next (f s)
  | .fault r => .fault r
  | .refused r => .refused r

end Sys2Proof.Machine
end

