-- ==== Sys2Proof/Machine/EntropyCapture.lean ====
section
/-! DEFINITION. Entropy capture: SAMPLE, CONVERT, CAPTURE, PERMUTE, UNPERMUTE, SEEDGEN (41_entropy_capture.md). -/

namespace Sys2Proof.Machine

/-- `draw Clock()`: `some v` is `Ok(v)`, `none` is `Unavailable` (00_scope.md R9, 10_state.md R39). -/
def drawClock (s : State) : Option Sample := if s.ports.clkOk then some s.ports.clkNs else none

/-- `zext_128(draw Addr())` (41_entropy_capture.md R105). -/
def drawAddr (s : State) : Sample := zextAddr s.params.addrW s.ports.addrSrc

/-- `SMP <- v` and the flags of a SAMPLE stage of kind k (41_entropy_capture.md R106). -/
def latchSample (k : Kind) (v : Sample) (s : State) : State := { s.flagsSampled k with smp := v }

/-- The SAMPLE stage (41_entropy_capture.md R106, 60_exceptions.md R152, R169). -/
def stageSample (k : Kind) : Stage := fun s =>
  match k with
  | .time =>
    match drawClock s with
    | some v => .ok (latchSample .time v s)
    | none => .error .clockUnavailable
  | .address => .ok (latchSample .address (drawAddr s) s)

/-- The CONVERT stage (41_entropy_capture.md R107). -/
def stageConvert : Stage := fun s =>
  if s.flag .smpV then .ok { s.withFlag .rawV true with raw := beBytes s.smp }
  else .error .noData

/-- The PERMUTE stage (41_entropy_capture.md R109). -/
def stagePermute : Stage := fun s =>
  if s.flag .rawV then .ok { s.withFlag .seedV true with seed := shuffle s.params.perm s.raw }
  else .error .noData

/-- The UNPERMUTE stage (41_entropy_capture.md R110). -/
def stageUnpermute : Stage := fun s =>
  if s.flag .seedV then .ok { s.withFlag .rawV true with raw := unshuffle s.params.perm s.seed }
  else .error .noData

/-- SAMPLE then CONVERT (41_entropy_capture.md R108). -/
def stageCapture (k : Kind) : Stage := thenStage (stageSample k) stageConvert

/-- SAMPLE, CONVERT, PERMUTE (41_entropy_capture.md R111). -/
def stageSeedgen (k : Kind) : Stage := thenStage (stageCapture k) stagePermute

/-- SAMPLE (41_entropy_capture.md R106). -/
def execSample (k : Kind) (s : State) : Result :=
  .next (runCommand (commandByte (.sample k)) (stageSample k) s)

/-- CONVERT (41_entropy_capture.md R107). -/
def execConvert (s : State) : Result := .next (runCommand (commandByte .convert) stageConvert s)

/-- CAPTURE (41_entropy_capture.md R108). -/
def execCapture (k : Kind) (s : State) : Result :=
  .next (runCommand (commandByte (.capture k)) (stageCapture k) s)

/-- PERMUTE (41_entropy_capture.md R109). -/
def execPermute (s : State) : Result := .next (runCommand (commandByte .permute) stagePermute s)

/-- UNPERMUTE (41_entropy_capture.md R110). -/
def execUnpermute (s : State) : Result := .next (runCommand (commandByte .unpermute) stageUnpermute s)

/-- SEEDGEN (41_entropy_capture.md R111). -/
def execSeedgen (k : Kind) (s : State) : Result :=
  .next (runCommand (commandByte (.seedgen k)) (stageSeedgen k) s)

end Sys2Proof.Machine
end

