-- ==== Sys2Proof/Machine/GeneratorFactory.lean ====
section
/-! DEFINITION. The generator factory: HANDOFF and CREATE, and the engine's side of the port (42_generator_factory.md). -/

namespace Sys2Proof.Machine

/-- `emit Seeded(SEED)`: the event in OUT, the lanes, the strobe (10_state.md R40, 42_generator_factory.md R131). -/
def emitSeeded (s : State) : State :=
  { s with out := s.out ++ [{ bytes := s.seed }], engSeed := s.seed, engSeedStb := true }

/-- Every copy of the seed is zeroed: SMP, RAW, SEED (42_generator_factory.md R131, 90_conflicts.md C3). -/
def zeroize (s : State) : State := { s with smp := 0#128, raw := zeros16, seed := zeros16 }

/-- The HANDOFF stage (42_generator_factory.md R131). No seed's content is checked (R138). -/
def stageHandoff : Stage := fun s =>
  if s.flag .seedV then .ok (zeroize (emitSeeded s)).flagsHandedOff
  else .error .noData

/-- SAMPLE, CONVERT, PERMUTE, HANDOFF (42_generator_factory.md R132). -/
def stageCreate (k : Kind) : Stage := thenStage (stageSeedgen k) stageHandoff

/-- HANDOFF (42_generator_factory.md R131). -/
def execHandoff (s : State) : Result := .next (runCommand (commandByte .handoff) stageHandoff s)

/-- CREATE (42_generator_factory.md R132). -/
def execCreate (k : Kind) (s : State) : Result :=
  .next (runCommand (commandByte (.create k)) (stageCreate k) s)

/-- The engine's side of the port: while the strobe is high it takes the 16 lanes at once, in lane order (10_state.md R40,
20_memory.md R64). -/
def engineLatch (s : State) : State :=
  if s.engSeedStb then { s with engineRx := s.engineRx ++ [{ bytes := s.engSeed }] } else s

/-- The initial states of the generator instances that the seeds received so far created, oldest first
(42_generator_factory.md R134, R135). -/
def generators (e : Config.Engine) (s : State) : List e.EngineState :=
  s.engineRx.map fun ev => e.seedFromBytes ev.bytes

end Sys2Proof.Machine
end

