-- ==== Sys2Proof/Machine/HostBus.lean ====
section
/-! DEFINITION. The host transactions: RD8, WR8, command dispatch, NOP (40_host_bus.md), running and halted
(60_exceptions.md R158). -/

namespace Sys2Proof.Machine

/-- The read of one offset: a legal one returns the byte, halted or not; an illegal one returns 0x00 and raises ILLEGAL_READ,
unless halted (40_host_bus.md R91, 60_exceptions.md R154, R158). -/
def hostRead (off : Byte) (s : State) : State :=
  match s.regByte off with
  | some b => returnByte b s
  | none => returnByte 0x00#8 (if s.halted then s else takeFault .illegalRead off s)

/-- The write of one offset other than CMD: RAW takes the byte, every other offset raises ILLEGAL_WRITE; ignored while halted
(40_host_bus.md R92, 60_exceptions.md R155, R158). -/
def hostWrite (off d : Byte) (s : State) : State :=
  if s.halted then s
  else
    match regOf off with
    | .raw i => { s.withFlag .rawV true with raw := s.raw.set i d }
    | _ => takeFault .illegalWrite off s

/-- RD8 (40_host_bus.md R91). -/
def execRd8 (off : Byte) (s : State) : Result := .next (hostRead off s)

/-- NOP (40_host_bus.md R94). -/
def execNop (s : State) : Result := .next (runCommand (commandByte .nop) .ok s)

/-- A write of the byte d to CMD runs the command it encodes (40_host_bus.md R93). -/
def dispatchCommand (d : Byte) (s : State) : Result :=
  match decodeCommand d with
  | none => .next (illegalCommand d s)
  | some .nop => execNop s
  | some (.sample k) => execSample k s
  | some .convert => execConvert s
  | some .permute => execPermute s
  | some .unpermute => execUnpermute s
  | some (.capture k) => execCapture k s
  | some (.seedgen k) => execSeedgen k s
  | some .handoff => execHandoff s
  | some (.create k) => execCreate k s

/-- WR8 (40_host_bus.md R92). No word decodes to a WR8 of CMD; that term means what `MemWrite` to CMD means, the dispatch of
R93 (notes/assumptions/12.md, DESIGN CHOICE, safe). -/
def execWr8 (off d : Byte) (s : State) : Result :=
  if off = cmdOffset then dispatchCommand d s else .next (hostWrite off d s)

end Sys2Proof.Machine
end

