-- ==== Sys2Proof/Machine/Turns.lean ====
section
/-! DEFINITION. What surrounds a transaction in a step: the next turn of the host, what the platform's ports show, the end of
the port's pulse, and how a word is put before the machine (00_scope.md R9, R10; 20_memory.md R59, R65). -/

namespace Sys2Proof.Machine

/-- The free port values of the n-th turn (41_entropy_capture.md R104, R105; notes/assumptions/2.md). -/
def freePorts (n : Nat) : Ports :=
  { clkOk := Config.clkOk n, clkNs := Config.clkNs n, addrSrc := Config.addrSrc n }

/-- What the ports show in a turn: what is known of them, else free values. -/
def portsShown (t : Turn) (n : Nat) : Ports := t.ports.getD (freePorts n)

/-- The port's one step is over: the strobe falls and the lanes go back to 0x00, so that nothing of the seed is left in the
SFE (10_state.md R40, R41, 42_generator_factory.md R135, 90_conflicts.md C3; notes/assumptions/5.md, DEDUCED, unsafe). -/
def endPulse (s : State) : State := { s with engSeed := zeros16, engSeedStb := false }

/-- The state in which the turn `t` is performed, with `rest` the turns after it. -/
def beginTurn (t : Turn) (rest : List Turn) (s : State) : State :=
  { endPulse s with ports := portsShown t s.tick, pending := rest, tick := s.tick + 1 }

/-- The next act of the outside and the state it meets; `none` when nothing is pending. -/
def nextTurn (s : State) : Option (HostAct × State) :=
  match s.pending with
  | [] => none
  | t :: rest => some (t.act, beginTurn t rest s)

/-- A step with nothing pending: every state element keeps its value (60_exceptions.md R168); only the port's pulse ends
(notes/assumptions/1.md). -/
def idle (s : State) : State := endPulse s

/-- The turn that performs the word `w`, with free port values. -/
def wordTurn (w : TWord) : Turn := { act := .transact w, ports := none }

/-- A host program put behind what is pending (notes/assumptions/1.md). -/
def loadWords (ws : List TWord) (s : State) : State := { s with pending := s.pending ++ ws.map wordTurn }

/-- The word numbered `w` of `nbits` bits put before what is pending, so that the next step performs it
(notes/assumptions/13.md). -/
def placeWord (s : State) (nbits w : Nat) : State :=
  { s with pending := wordTurn (BitVec.ofNat 17 (w % 2 ^ nbits)) :: s.pending }

end Sys2Proof.Machine
end

