-- ==== Sys2Proof/Machine/Dispatch.lean ====
section
/-! DEFINITION. The meaning of each instruction, one arm per constructor. -/

namespace Sys2Proof.Machine

def exec (i : Instr) (s : State) : Host.Outcome State Fault Refusal :=
  match i with
  | .rd8 off => Sys2Proof.Machine.execRd8 off s
  | .wr8 off data => Sys2Proof.Machine.execWr8 off data s
  | .nop => Sys2Proof.Machine.execNop s
  | .sample k => Sys2Proof.Machine.execSample k s
  | .convert => Sys2Proof.Machine.execConvert s
  | .permute => Sys2Proof.Machine.execPermute s
  | .unpermute => Sys2Proof.Machine.execUnpermute s
  | .capture k => Sys2Proof.Machine.execCapture k s
  | .seedgen k => Sys2Proof.Machine.execSeedgen k s
  | .handoff => Sys2Proof.Machine.execHandoff s
  | .create k => Sys2Proof.Machine.execCreate k s

end Sys2Proof.Machine
end

