-- ==== Sys2Proof/Machine/Step.lean ====
section
/-! DEFINITION. One step: the next transaction of the host (40_host_bus.md R90), or a reset between two transactions
(70_reset_and_hazards.md R180), or nothing. -/

namespace Sys2Proof.Machine

/-- One step of the machine. A transaction is decoded and performed, then the engine latches its port (20_memory.md R60). An
illegal command byte has no row of its own; it raises ILLEGAL_COMMAND here (40_host_bus.md R93). -/
def step (s : State) : Host.Outcome State Fault Refusal :=
  match nextTurn s with
  | none => .next (idle s)
  | some (.reset, s1) => .next (takeReset s1)
  | some (.transact w, s1) =>
    match decode w with
    | .instr i => onNext engineLatch (exec i s1)
    | .illegalCommand d => onNext engineLatch (.next (illegalCommand d s1))

/-- The state with the word numbered `w` as the next transaction of the host. -/
def State.withFetchWord (s : State) (nbits w : Nat) : State := placeWord s nbits w

end Sys2Proof.Machine
end

