-- ==== Sys2Proof/Machine/Assembler.lean ====
section
/-! DEFINITION. The host's assembler: one statement a line to format-T words (30_encoding.md R79, R80). A line is a list of
characters. What R79 leaves open of the spelling (letter case, blanks, commas) is notes/assumptions/17.md, DESIGN CHOICE, safe. -/

namespace Sys2Proof.Machine

/-! ### Statements -/

/-- An operand: a number, or one of the kinds `t` and `a`. -/
inductive AsmOperand where
  | num (n : Nat)
  | kind (k : Kind)
  deriving DecidableEq, Repr

/-- The statement names of 30_encoding.md R79 and the pseudo-instructions of R80. -/
inductive AsmName where
  | rd8
  | wr8
  | nop
  | sample
  | convert
  | permute
  | unpermute
  | capture
  | seedgen
  | handoff
  | create
  | created
  | capclk
  | capaddr
  | seedclk
  | seedaddr
  | cmd
  | wrraw
  | rdraw
  | rdseed
  | rdsmp
  | rdstat
  deriving DecidableEq, Repr

/-- A number from 0 to 255 as a byte; others are refused. -/
def asmByte (n : Nat) : Option Byte := if n < 256 then some (BitVec.ofNat 8 n) else none

/-- A list of exactly 16 numbers from 0 to 255 as a byte array. -/
def asmBytes16 (ops : List AsmOperand) : Option Bytes16 :=
  let bytes := ops.filterMap fun
    | .num n => asmByte n
    | .kind _ => none
  if h : bytes.length = 16 then
    if ops.length = 16 then some ⟨bytes.toArray, by simpa using h⟩ else none
  else none

/-- The words of a statement; `none` where the assembler refuses it: a kind that the name does not take, a missing kind, a
number outside 0 to 255, a wrong count of operands (30_encoding.md R79, R80). -/
def assembleStmt (name : AsmName) (ops : List AsmOperand) : Option (List TWord) :=
  match name, ops with
  | .rd8, [.num off] => (asmByte off).map fun o => [formatT 0#1 o 0#8]
  | .wr8, [.num off, .num d] => (asmByte off).bind fun o => (asmByte d).map fun b => [formatT 1#1 o b]
  | .nop, [] => some [encode .nop]
  | .sample, [.kind k] => some [encode (.sample k)]
  | .convert, [] => some [encode .convert]
  | .permute, [] => some [encode .permute]
  | .unpermute, [] => some [encode .unpermute]
  | .capture, [.kind k] => some [encode (.capture k)]
  | .seedgen, [.kind k] => some [encode (.seedgen k)]
  | .handoff, [] => some [encode .handoff]
  | .create, [.kind k] => some [encode (.create k)]
  | .created, [] => some (expandPseudo .created)
  | .capclk, [] => some (expandPseudo .capclk)
  | .capaddr, [] => some (expandPseudo .capaddr)
  | .seedclk, [] => some (expandPseudo .seedclk)
  | .seedaddr, [] => some (expandPseudo .seedaddr)
  | .cmd, [.num d] => (asmByte d).map fun b => expandPseudo (.cmd b)
  | .wrraw, bytes => (asmBytes16 bytes).map fun b => expandPseudo (.wrraw b)
  | .rdraw, [] => some (expandPseudo .rdraw)
  | .rdseed, [] => some (expandPseudo .rdseed)
  | .rdsmp, [] => some (expandPseudo .rdsmp)
  | .rdstat, [] => some (expandPseudo .rdstat)
  | _, _ => none

/-! ### Lines -/

/-- A token of a line: a run of characters, or a comma. -/
inductive AsmToken where
  | word (cs : List Char)
  | comma
  deriving DecidableEq, Repr

/-- The word gathered so far, if any; `acc` holds it backwards. -/
def flushWord (acc : List Char) : List AsmToken := if acc = [] then [] else [.word acc.reverse]

/-- The tokens of a line. Spaces, tabs and commas end a word (notes/assumptions/17.md); `;` starts a comment, which runs to the end of the line. -/
def lexLine (acc : List Char) : List Char → List AsmToken
  | [] => flushWord acc
  | c :: cs =>
    if c = ';' then flushWord acc
    else if c = ',' then flushWord acc ++ .comma :: lexLine [] cs
    else if c = ' ' || c = '\t' then flushWord acc ++ lexLine [] cs
    else lexLine (c :: acc) cs

/-- The value of a digit in base 16, its letter in either case (notes/assumptions/17.md, DESIGN CHOICE, safe). -/
def hexDigit (c : Char) : Option Nat :=
  if '0' ≤ c ∧ c ≤ '9' then some (c.toNat - '0'.toNat)
  else if 'a' ≤ c ∧ c ≤ 'f' then some (c.toNat - 'a'.toNat + 10)
  else if 'A' ≤ c ∧ c ≤ 'F' then some (c.toNat - 'A'.toNat + 10)
  else none

/-- Digits in a base, most significant first, onto the value so far. -/
def readDigits (base : Nat) (acc : Nat) : List Char → Option Nat
  | [] => some acc
  | c :: cs =>
    match hexDigit c with
    | some d => if d < base then readDigits base (base * acc + d) cs else none
    | none => none

/-- A number: `0x`, with a lower-case x, and hex digits, or decimal digits (notes/assumptions/17.md, DESIGN CHOICE, safe). -/
def readNumber (cs : List Char) : Option Nat :=
  match cs with
  | '0' :: 'x' :: h :: hs => readDigits 16 0 (h :: hs)
  | d :: ds => readDigits 10 0 (d :: ds)
  | [] => none

/-- An operand's word; the kinds are lower-case only (notes/assumptions/17.md, DESIGN CHOICE, safe). -/
def readOperand (cs : List Char) : Option AsmOperand :=
  if cs = ['t'] then some (.kind .time)
  else if cs = ['a'] then some (.kind .address)
  else (readNumber cs).map .num

/-- Operands with a comma between two of them (notes/assumptions/17.md, DESIGN CHOICE, safe). -/
def readOperands : List AsmToken → Option (List AsmOperand)
  | [] => some []
  | [.word w] => (readOperand w).map fun o => [o]
  | .word w :: .comma :: .word v :: rest =>
    (readOperand w).bind fun o => (readOperands (.word v :: rest)).map fun os => o :: os
  | _ => none

/-- The names as they are written, lower-case only (notes/assumptions/17.md, DESIGN CHOICE, safe). -/
def asmNames : List (List Char × AsmName) :=
  [("rd8".toList, .rd8), ("wr8".toList, .wr8), ("nop".toList, .nop), ("sample".toList, .sample),
   ("convert".toList, .convert), ("permute".toList, .permute), ("unpermute".toList, .unpermute),
   ("capture".toList, .capture), ("seedgen".toList, .seedgen), ("handoff".toList, .handoff),
   ("create".toList, .create), ("created".toList, .created), ("capclk".toList, .capclk),
   ("capaddr".toList, .capaddr), ("seedclk".toList, .seedclk), ("seedaddr".toList, .seedaddr),
   ("cmd".toList, .cmd), ("wrraw".toList, .wrraw), ("rdraw".toList, .rdraw), ("rdseed".toList, .rdseed),
   ("rdsmp".toList, .rdsmp), ("rdstat".toList, .rdstat)]

/-- The words of a line: none for an empty or comment line (30_encoding.md R79). -/
def assembleLine (line : List Char) : Option (List TWord) :=
  match lexLine [] line with
  | [] => some []
  | .word w :: rest =>
    ((asmNames.find? fun p => p.1 = w).map Prod.snd).bind fun name => (readOperands rest).bind (assembleStmt name)
  | .comma :: _ => none

/-- A host program: its lines in order, refused if one of them is. -/
def assemble : List (List Char) → Option (List TWord)
  | [] => some []
  | line :: rest => (assembleLine line).bind fun ws => (assemble rest).map fun more => ws ++ more

end Sys2Proof.Machine
end

