-- ==== Sys2Proof/Safety.lean ====
section
/-! DEFINITION. What a run shows, when it is successful, and the invariants of the state, in the terms claims use
(00_scope.md R11, 60_exceptions.md R158, 10_state.md R26 to R35). -/

namespace Sys2Proof

open Machine

/-- What a run of the SFE shows (00_scope.md R11). -/
structure Observation where
  reads : List Byte
  events : List Seeded
  fault : Bool
  cause : Byte
  finfo : Byte
  deriving DecidableEq, Repr

def observe (s : State) : Observation :=
  { reads := s.reads, events := s.out, fault := s.flag .fault, cause := s.cause, finfo := s.finfo }

/-- FAULT = 0: the SFE performs transactions, and a claim may call the state a successful end (40_host_bus.md R90,
60_exceptions.md R158). -/
abbrev Running (s : State) : Prop := s.flag .fault = false

/-- FAULT = 1 (60_exceptions.md R158). -/
abbrev Halted (s : State) : Prop := s.flag .fault = true

/-- The next act of the outside is not an assertion of reset. -/
abbrev NoResetNext (s : State) : Prop := s.pending.head?.map Turn.act ≠ some .reset

/-- The instruction has a SAMPLE stage (20_memory.md R65). -/
def hasSampleStage : Instr → Bool
  | .sample _ | .capture _ | .seedgen _ | .create _ => true
  | .rd8 _ | .wr8 _ _ | .nop | .convert | .permute | .unpermute | .handoff => false

/-- The bus offsets whose bytes an instruction writes when it takes no fault, STATUS apart (the column "written by" of
10_state.md R22 to R24). -/
def writesByte (i : Instr) (a : Byte) : Bool :=
  match i with
  | .rd8 _ | .nop => false
  | .wr8 off _ => a = off && off.toNat < 0x10
  | .sample _ => 0x20 ≤ a.toNat && a.toNat < 0x30
  | .convert | .unpermute => a.toNat < 0x10
  | .permute => 0x10 ≤ a.toNat && a.toNat < 0x20
  | .capture _ => a.toNat < 0x10 || 0x20 ≤ a.toNat && a.toNat < 0x30
  | .seedgen _ | .handoff | .create _ => a.toNat < 0x30

/-- The flags an instruction writes when it takes no fault (the column "written by" of 10_state.md R25). -/
def writesFlag (i : Instr) (b : StatusBit) : Bool :=
  match i with
  | .rd8 _ | .nop => false
  | .wr8 _ _ | .convert | .unpermute => b = .rawV
  | .permute => b = .seedV
  | .sample k => b = .smpV || b = .smpKind || b = .addrUsed && k = .address
  | .capture k => b = .smpV || b = .smpKind || b = .rawV || b = .addrUsed && k = .address
  | .seedgen k => b = .smpV || b = .smpKind || b = .rawV || b = .seedV || b = .addrUsed && k = .address
  | .handoff => b = .engSeeded || b = .smpV || b = .rawV || b = .seedV || b = .smpKind
  | .create k =>
    b = .engSeeded || b = .smpV || b = .rawV || b = .seedV || b = .smpKind || b = .addrUsed && k = .address

/-- The instruction has a HANDOFF stage, so it may emit a `Seeded` event (42_generator_factory.md R131, R132). -/
def hasHandoffStage : Instr → Bool
  | .handoff | .create _ => true
  | .rd8 _ | .wr8 _ _ | .nop | .sample _ | .convert | .permute | .unpermute | .capture _ | .seedgen _ => false

/-- The legal values of STATUS: bit 6 clear, SMP_KIND only with SMP_V and only with ADDR_USED (10_state.md R34). -/
abbrev StatusLegal (s : State) : Prop :=
  s.status.getLsbD 6 = false ∧
  (s.flag .smpKind = true → s.flag .smpV = true) ∧
  (s.flag .smpKind = true → s.flag .addrUsed = true)

/-- A data register whose valid bit is 0 holds zero (10_state.md R26 for SMP; for RAW and SEED read from R25, R41 and
42_generator_factory.md R131, DEDUCED, safe). -/
abbrev EmptyIsZero (s : State) : Prop :=
  (s.flag .smpV = false → s.smp = 0#128) ∧
  (s.flag .rawV = false → s.raw = zeros16) ∧
  (s.flag .seedV = false → s.seed = zeros16)

/-- A cause and the information byte it records (60_exceptions.md R151). -/
abbrev FaultRecord (cause finfo : Byte) : Prop :=
  (cause = 0x01#8 ∧ finfo ∈ [0x01#8, 0x05#8, 0x06#8, 0x08#8]) ∨
  (cause = 0x02#8 ∧ decodeCommand finfo = none) ∨
  (cause = 0x03#8 ∧ (finfo = 0x31#8 ∨ 0x34 ≤ finfo.toNat)) ∨
  (cause = 0x04#8 ∧ (0x10 ≤ finfo.toNat ∧ finfo.toNat ≤ 0x30 ∨ 0x32 ≤ finfo.toNat)) ∨
  (cause = 0x05#8 ∧ finfo ∈ [0x02#8, 0x03#8, 0x04#8, 0x07#8])

/-- FAULT against CAUSE and FINFO (10_state.md R35, 60_exceptions.md R151). -/
abbrev FaultRecorded (s : State) : Prop :=
  (s.flag .fault = false → s.cause = 0x00#8 ∧ s.finfo = 0x00#8) ∧
  (s.flag .fault = true → FaultRecord s.cause s.finfo)

/-- The bytes of the last event; zeros before the first. -/
def lastSeed (out : List Seeded) : Bytes16 :=
  match out.getLast? with
  | some ev => ev.bytes
  | none => zeros16

/-- ENG_SEEDED, OUT, the output port and what the engine received agree: the lanes carry the last event while the strobe is
high, and nothing while it is low (10_state.md R29, R40; 20_memory.md R64; 42_generator_factory.md R135;
notes/assumptions/5.md). -/
abbrev EventsAgree (s : State) : Prop :=
  (s.flag .engSeeded = true ↔ s.out ≠ []) ∧
  (s.engSeedStb = true → s.out ≠ []) ∧
  s.engSeed = (if s.engSeedStb then lastSeed s.out else zeros16) ∧
  s.out <:+ s.engineRx

/-- The invariant of the whole state. -/
abbrev Inv (s : State) : Prop := StatusLegal s ∧ EmptyIsZero s ∧ FaultRecorded s ∧ EventsAgree s

end Sys2Proof
end

