-- ==== Sys2Proof/Certificates/Slice0/Obligations.lean ====
section
/-! DEFINITION. The statements about the seeding front-end, each from numbered rules of spec/. -/

open Sys2Proof Sys2Proof.Machine

/-! ### Encoding -/

/-- Encoding a well-formed instruction and decoding the word gives the instruction back, for every operand value
(30_encoding.md R71 to R76). -/
def Obligations.DecodeInvertsEncode : Prop :=
  ∀ i : Instr, i.WellFormed → decode (encode i) = .instr i

/-- A word that decodes to an instruction is that instruction's encoding, but for the DATA field of a read, which is ignored
and which an encoder writes as 0; and what it decodes to is well-formed (30_encoding.md R71, R75). -/
def Obligations.DecodedWordReencodes : Prop :=
  ∀ (w : TWord) (i : Instr), decode w = .instr i →
    i.WellFormed ∧ encode i = if w.getLsbD 16 then w else w &&& 0x1FF00#17

/-- The words rejected by name are exactly the writes to CMD of a byte with RSV not 000, or OP in 0x9 to 0xF, or K = 1 on
NOP, CONVERT, PERMUTE, UNPERMUTE or HANDOFF (30_encoding.md R77). -/
def Obligations.IllegalCommandWordsExactly : Prop :=
  ∀ (w : TWord) (d : Byte), decode w = .illegalCommand d ↔
    w = 1#1 ++ 0x31#8 ++ d ∧
      (d.extractLsb' 5 3 ≠ 0#3 ∨ 0x9 ≤ (d.extractLsb' 0 4).toNat ∨
        (d.getLsbD 4 = true ∧ (d.extractLsb' 0 4).toNat ∈ [0x0, 0x2, 0x3, 0x4, 0x7]))

/-- Words of the spec and the instructions they stand for (30_encoding.md R71, R73; 95_test_vectors.md). -/
def Obligations.SpecWordsDecode : Prop :=
  decode 0x02F00#17 = .instr (.rd8 0x2F#8) ∧ decode 0x105A7#17 = .instr (.wr8 0x05#8 0xA7#8) ∧
  decode 0x13100#17 = .instr .nop ∧ decode 0x13111#17 = .instr (.sample .address) ∧
  decode 0x13102#17 = .instr .convert ∧ decode 0x13103#17 = .instr .permute ∧
  decode 0x13104#17 = .instr .unpermute ∧ decode 0x13105#17 = .instr (.capture .time) ∧
  decode 0x13116#17 = .instr (.seedgen .address) ∧ decode 0x13107#17 = .instr .handoff ∧
  decode 0x13108#17 = .instr (.create .time) ∧ decode 0x13128#17 = .illegalCommand 0x28#8

/-- The pseudo-instructions expand to the statements shown (30_encoding.md R80), `created` to CREATE with K = 0 (R133). -/
def Obligations.PseudoInstructionsExpand : Prop :=
  (expandPseudo .created).map decode = [.instr (.create .time)] ∧
  (expandPseudo .capclk).map decode = [.instr (.capture .time)] ∧
  (expandPseudo .capaddr).map decode = [.instr (.capture .address)] ∧
  (expandPseudo .seedclk).map decode = [.instr (.seedgen .time)] ∧
  (expandPseudo .seedaddr).map decode = [.instr (.seedgen .address)] ∧
  (∀ d : Byte, expandPseudo (.cmd d) = [1#1 ++ 0x31#8 ++ d]) ∧
  (∀ b : Bytes16, (expandPseudo (.wrraw b)).length = 16 ∧
    ∀ i : Fin 16, (expandPseudo (.wrraw b))[i.val]?.map decode = some (.instr (.wr8 (BitVec.ofNat 8 i.val) b[i]))) ∧
  (expandPseudo .rdraw).map decode = (List.range 16).map (fun i => .instr (.rd8 (BitVec.ofNat 8 i))) ∧
  (expandPseudo .rdseed).map decode = (List.range 16).map (fun i => .instr (.rd8 (BitVec.ofNat 8 (0x10 + i)))) ∧
  (expandPseudo .rdsmp).map decode = (List.range 16).map (fun i => .instr (.rd8 (BitVec.ofNat 8 (0x20 + i)))) ∧
  (expandPseudo .rdstat).map decode = [.instr (.rd8 0x30#8)]

/-- The statements of a host program encode as the table shows, and a statement is refused when a number is outside 0 to 255,
a kind is missing, or a kind stands where none is taken (30_encoding.md R79). -/
def Obligations.StatementsAssemble : Prop :=
  (∀ off : Byte, assembleStmt .rd8 [.num off.toNat] = some [0#1 ++ off ++ 0x00#8]) ∧
  (∀ off d : Byte, assembleStmt .wr8 [.num off.toNat, .num d.toNat] = some [1#1 ++ off ++ d]) ∧
  assembleStmt .nop [] = some [0x13100#17] ∧ assembleStmt .convert [] = some [0x13102#17] ∧
  assembleStmt .permute [] = some [0x13103#17] ∧ assembleStmt .unpermute [] = some [0x13104#17] ∧
  assembleStmt .handoff [] = some [0x13107#17] ∧
  assembleStmt .sample [.kind .time] = some [0x13101#17] ∧ assembleStmt .sample [.kind .address] = some [0x13111#17] ∧
  assembleStmt .capture [.kind .time] = some [0x13105#17] ∧ assembleStmt .capture [.kind .address] = some [0x13115#17] ∧
  assembleStmt .seedgen [.kind .time] = some [0x13106#17] ∧ assembleStmt .seedgen [.kind .address] = some [0x13116#17] ∧
  assembleStmt .create [.kind .time] = some [0x13108#17] ∧ assembleStmt .create [.kind .address] = some [0x13118#17] ∧
  (∀ n : Nat, 256 ≤ n → assembleStmt .rd8 [.num n] = none ∧
    ∀ m : Nat, assembleStmt .wr8 [.num n, .num m] = none ∧ assembleStmt .wr8 [.num m, .num n] = none) ∧
  (∀ name ∈ [AsmName.sample, .capture, .seedgen, .create], assembleStmt name [] = none) ∧
  (∀ name ∈ [AsmName.nop, .convert, .permute, .unpermute, .handoff], ∀ k : Kind, assembleStmt name [.kind k] = none)

/-! ### Datapath -/

/-- Byte k of the converter's output is v[127-8k : 120-8k], and the converter is a bijection whose inverse is the
concatenation of the bytes, byte 0 first (41_entropy_capture.md R100). -/
def Obligations.ConverterIsBigEndianBijection : Prop :=
  (∀ (v : Sample) (k : Fin 16), (beBytes v)[k] = v.extractLsb' (120 - 8 * k.val) 8) ∧
  (∀ v : Sample, ofBeBytes (beBytes v) = v) ∧
  (∀ b : Bytes16, beBytes (ofBeBytes b) = b)

/-- The original code's 32-bit mask, the 8-bit mask and no mask give the same byte at every shift 0, 8, ..., 120, and the
converter's bytes are those (41_entropy_capture.md R112). -/
def Obligations.MasksGiveTheSameBytes : Prop :=
  ∀ (v : Sample) (k : Fin 16),
    ((v >>> (8 * k.val)) &&& 0xFFFFFFFF#128).setWidth 8 = ((v >>> (8 * k.val)) &&& 0xFF#128).setWidth 8 ∧
    ((v >>> (8 * k.val)) &&& 0xFF#128).setWidth 8 = (v >>> (8 * k.val)).setWidth 8 ∧
    (beBytes v)[k] = ((v >>> (120 - 8 * k.val)) &&& 0xFFFFFFFF#128).setWidth 8

/-- The inverse network undoes the network and the other way round, for every bijection PERM and every array; and the network
on 0, 1, ..., 15 lists each of them exactly once and equals PERM (41_entropy_capture.md R114). -/
def Obligations.ShuffleRoundTrips : Prop :=
  ∀ (p : Perm) (x : Bytes16),
    unshuffle p (shuffle p x) = x ∧ shuffle p (unshuffle p x) = x ∧
    (∀ j : Fin 16, (shuffle p (lanes fun i => BitVec.ofNat 8 i.val))[j] = BitVec.ofNat 8 (p.map[j]).val) ∧
    (∀ i : Fin 16, (shuffle p (lanes fun i => BitVec.ofNat 8 i.val)).toList.count (BitVec.ofNat 8 i.val) = 1)

/-- The network and its inverse move lanes: every output lane is one input lane, every input lane goes to exactly one output
lane, and the multiset of byte values is kept (41_entropy_capture.md R115). -/
def Obligations.NetworksMoveLanes : Prop :=
  ∀ (p : Perm) (x : Bytes16),
    (∀ j : Fin 16, (shuffle p x)[j] = x[p.map[j]]) ∧
    (∀ i : Fin 16, ∃ j : Fin 16, p.map[j] = i ∧ ∀ j' : Fin 16, p.map[j'] = i → j' = j) ∧
    (∀ j : Fin 16, (unshuffle p x)[p.map[j]] = x[j]) ∧
    (shuffle p x).toList.Perm x.toList ∧ (unshuffle p x).toList.Perm x.toList

/-- Under PERM_DEFAULT the low-order bytes RAW[15-m] land on the even positions SEED[2m] and the high-order bytes RAW[m] on
the odd positions SEED[2m+1] (41_entropy_capture.md R116). -/
def Obligations.DefaultScattersLowBytes : Prop :=
  ∀ (x : Bytes16) (m : Fin 8),
    (shuffle permDefault x)[2 * m.val]? = x[15 - m.val]? ∧ (shuffle permDefault x)[2 * m.val + 1]? = x[m.val]?

/-- Seeds of two samples are equal exactly when the samples are, under every permutation (41_entropy_capture.md R100, R114;
95_test_vectors.md W6, V-D1). -/
def Obligations.SeedsAreEqualIffSamplesAre : Prop :=
  ∀ (p : Perm) (v w : Sample), shuffle p (beBytes v) = shuffle p (beBytes w) ↔ v = w

/-- Bit i of an address sample is bit i of the port below ADDR_W and 0 from ADDR_W up (41_entropy_capture.md R105). -/
def Obligations.AddressIsZeroExtended : Prop :=
  ∀ (s : State) (i : Nat),
    (drawAddr s).getLsbD i = (decide (i < s.params.addrW) && s.ports.addrSrc.getLsbD i)

/-- The bus view of SMP has the converter's order: offset 0x20 + k holds the byte that CONVERT would put in RAW[k]
(20_memory.md R53). -/
def Obligations.SampleReadsInConverterOrder : Prop :=
  ∀ (s : State) (k : Fin 16), s.regByte (BitVec.ofNat 8 (0x20 + k.val)) = some (beBytes s.smp)[k]

/-- A read of STATUS shows bit 6 as 0 and every named flag (10_state.md R25). -/
def Obligations.StatusReadsReservedBitAsZero : Prop :=
  ∀ s : State, ∃ b : Byte, s.regByte 0x30#8 = some b ∧ b.getLsbD 6 = false ∧ ∀ f : StatusBit, getBit b f = s.flag f

/-! ### Reset and the step -/

/-- The reset values of every state element (10_state.md R41). -/
def Obligations.ResetValues : Prop :=
  State.reset.smp = 0#128 ∧ (∀ i : Fin 16, State.reset.raw[i] = 0x00#8) ∧ (∀ i : Fin 16, State.reset.seed[i] = 0x00#8) ∧
  State.reset.status = 0x00#8 ∧ State.reset.cause = 0x00#8 ∧ State.reset.finfo = 0x00#8 ∧ State.reset.out = [] ∧
  (∀ i : Fin 16, State.reset.engSeed[i] = 0x00#8) ∧ State.reset.engSeedStb = false

/-- An assertion of reset, from any state, halted ones too, puts every state element at its reset value
(70_reset_and_hazards.md R180) and emits no event (R181). The parameters stay (10_state.md R42). That the ports, the turns to
come and the records of the host and the engine stay is the model's choice (notes/assumptions/11.md). -/
def Obligations.ResetStepGivesResetValues : Prop :=
  ∀ (s : State) (t : Turn) (rest : List Turn), s.pending = t :: rest → t.act = .reset →
    step s = .next
      { smp := 0#128, raw := zeros16, seed := zeros16, status := 0x00#8, cause := 0x00#8, finfo := 0x00#8, out := [],
        engSeed := zeros16, engSeedStb := false, params := s.params, ports := portsShown t s.tick, pending := rest,
        reads := s.reads, engineRx := s.engineRx, tick := s.tick + 1 }

/-- When the next word decodes to an instruction, the step is exec of it, on the state in which the turn begins (the word
taken from the pending ones, the ports showing this turn's values, the output port's pulse over), and then the engine latches
its port (40_host_bus.md R90, 20_memory.md R60). The turn, the pulse's end and the latch are the model's
(notes/assumptions/1.md, 2.md, 4.md, 5.md). -/
def Obligations.StepRunsDecodedInstruction : Prop :=
  ∀ (s : State) (t : Turn) (rest : List Turn) (w : TWord) (i : Instr),
    s.pending = t :: rest → t.act = .transact w → decode w = .instr i →
    step s = onNext engineLatch
      (exec i { s with engSeed := zeros16, engSeedStb := false, ports := portsShown t s.tick, pending := rest,
                       tick := s.tick + 1 })

/-- When the next word writes an illegal command byte, a running SFE takes ILLEGAL_COMMAND with FINFO the byte and changes
none of the elements of 10_state.md R20 but FAULT, CAUSE and FINFO, whatever the clock shows; a halted one ignores it
(60_exceptions.md R151, R153, R157, R158, R160). Around that stand the model's choices: the step takes the fault for a word that
has no constructor (notes/assumptions/14.md), takes the turn and its port values (1.md, 2.md), and ends the output port's pulse
of an earlier HANDOFF (R40, notes/assumptions/5.md). -/
def Obligations.StepTakesIllegalCommand : Prop :=
  ∀ (s : State) (t : Turn) (rest : List Turn) (w : TWord) (d : Byte),
    s.pending = t :: rest → t.act = .transact w → decode w = .illegalCommand d →
    (Running s → step s = .next
      { s with engSeed := zeros16, engSeedStb := false, ports := portsShown t s.tick, pending := rest, tick := s.tick + 1,
               status := s.status ||| 0x80#8, cause := 0x02#8, finfo := d }) ∧
    (Halted s → step s = .next
      { s with engSeed := zeros16, engSeedStb := false, ports := portsShown t s.tick, pending := rest, tick := s.tick + 1 })

/-- With nothing pending a step keeps every element of 10_state.md R20; only the output port's one-step pulse ends
(60_exceptions.md R168, 10_state.md R40). That such a step exists, and what the lanes then hold, is the model's choice
(notes/assumptions/1.md, 5.md). -/
def Obligations.IdleStepKeepsState : Prop :=
  ∀ s : State, s.pending = [] → step s = .next { s with engSeed := zeros16, engSeedStb := false }

/-- Every step answers a next state: the SFE does not wait, retry or block, and a fault is a state it goes on from
(40_host_bus.md R90, 60_exceptions.md R158). -/
def Obligations.StepAlwaysAnswers : Prop :=
  ∀ s : State, ∃ u : State, step s = .next u

/-- The word of any well-formed instruction put before the machine is what the very next step runs, with free port values. The
word's number, the free values, the engine's latch and the end of the pulse are the model's (notes/assumptions/13.md, 2.md,
4.md, 5.md). -/
def Obligations.PlacedWordRunsNext : Prop :=
  ∀ (s : State) (i : Instr), i.WellFormed →
    step (s.withFetchWord 17 (encode i).toNat) = onNext engineLatch
      (exec i { s with engSeed := zeros16, engSeedStb := false, ports := freePorts s.tick, tick := s.tick + 1 })

/-! ### Host transactions -/

/-- A read of each readable offset returns its byte and changes nothing, running or halted (40_host_bus.md R91,
20_memory.md R51, R56, 60_exceptions.md R158). The record of the returned bytes is the model's (notes/assumptions/3.md). -/
def Obligations.ReadReturnsRegisterByte : Prop :=
  ∀ s : State,
    (∀ i : Fin 16, exec (.rd8 (BitVec.ofNat 8 i.val)) s = .next { s with reads := s.reads ++ [s.raw[i]] }) ∧
    (∀ j : Fin 16, exec (.rd8 (BitVec.ofNat 8 (0x10 + j.val))) s = .next { s with reads := s.reads ++ [s.seed[j]] }) ∧
    (∀ k : Fin 16, exec (.rd8 (BitVec.ofNat 8 (0x20 + k.val))) s =
      .next { s with reads := s.reads ++ [s.smp.extractLsb' (120 - 8 * k.val) 8] }) ∧
    exec (.rd8 0x30#8) s = .next { s with reads := s.reads ++ [s.status &&& 0xBF#8] } ∧
    exec (.rd8 0x32#8) s = .next { s with reads := s.reads ++ [s.cause] } ∧
    exec (.rd8 0x33#8) s = .next { s with reads := s.reads ++ [s.finfo] }

/-- A read of CMD or of a reserved offset returns 0x00; a running SFE takes ILLEGAL_READ with FINFO the offset, a halted one
no fault, and neither changes anything else (40_host_bus.md R91, 60_exceptions.md R151, R154, R157, R158). The record of the
returned bytes is the model's (notes/assumptions/3.md). -/
def Obligations.IllegalReadFaults : Prop :=
  ∀ (s : State) (off : Byte), off = 0x31#8 ∨ 0x34 ≤ off.toNat →
    (Running s → exec (.rd8 off) s = .next
      { s with reads := s.reads ++ [0x00#8], status := s.status ||| 0x80#8, cause := 0x03#8, finfo := off }) ∧
    (Halted s → exec (.rd8 off) s = .next { s with reads := s.reads ++ [0x00#8] })

/-- A write to offset i of the RAW row puts the byte in RAW[i] and sets RAW_V (40_host_bus.md R92). -/
def Obligations.WriteRawByte : Prop :=
  ∀ (s : State) (i : Fin 16) (d : Byte), Running s →
    exec (.wr8 (BitVec.ofNat 8 i.val) d) s = .next { s with raw := s.raw.set i d, status := s.status ||| 0x02#8 }

/-- A write to 0x10..0x30 or 0x32..0xFF takes ILLEGAL_WRITE with FINFO the offset, and the data is discarded
(60_exceptions.md R155). -/
def Obligations.IllegalWriteFaults : Prop :=
  ∀ (s : State) (off d : Byte), Running s → 0x10 ≤ off.toNat → off ≠ 0x31#8 →
    exec (.wr8 off d) s = .next { s with status := s.status ||| 0x80#8, cause := 0x04#8, finfo := off }

/-- A write of a byte to CMD runs the command the byte encodes, or takes ILLEGAL_COMMAND (10_state.md R36,
40_host_bus.md R93). -/
def Obligations.WriteToCmdRunsCommand : Prop :=
  ∀ (s : State) (d : Byte),
    (∀ i : Instr, decode (1#1 ++ 0x31#8 ++ d) = .instr i → exec (.wr8 0x31#8 d) s = exec i s) ∧
    (decode (1#1 ++ 0x31#8 ++ d) = .illegalCommand d → Running s →
      exec (.wr8 0x31#8 d) s = .next { s with status := s.status ||| 0x80#8, cause := 0x02#8, finfo := d })

/-- NOP changes nothing (40_host_bus.md R94). -/
def Obligations.NopChangesNothing : Prop :=
  ∀ s : State, exec .nop s = .next s

/-! ### Entropy capture -/

/-- SAMPLE with K = 0 and a clock that reports a duration (41_entropy_capture.md R106). -/
def Obligations.SampleLatchesClock : Prop :=
  ∀ s : State, Running s → s.ports.clkOk = true →
    exec (.sample .time) s = .next { s with smp := s.ports.clkNs, status := (s.status ||| 0x01#8) &&& 0xDF#8 }

/-- SAMPLE with K = 1: never a fault (41_entropy_capture.md R105, R106). -/
def Obligations.SampleLatchesAddress : Prop :=
  ∀ s : State, Running s →
    exec (.sample .address) s = .next
      { s with smp := (s.ports.addrSrc.setWidth s.params.addrW).setWidth 128, status := s.status ||| 0x31#8 }

/-- Each of the four commands with a SAMPLE stage of K = 0 takes CLOCK_UNAVAILABLE with FINFO its command byte when the clock
reports nothing; nothing else changes: no fallback, no event (60_exceptions.md R152, R157, R169). -/
def Obligations.ClockUnavailableFaults : Prop :=
  ∀ s : State, Running s → s.ports.clkOk = false →
    exec (.sample .time) s = .next { s with status := s.status ||| 0x80#8, cause := 0x01#8, finfo := 0x01#8 } ∧
    exec (.capture .time) s = .next { s with status := s.status ||| 0x80#8, cause := 0x01#8, finfo := 0x05#8 } ∧
    exec (.seedgen .time) s = .next { s with status := s.status ||| 0x80#8, cause := 0x01#8, finfo := 0x06#8 } ∧
    exec (.create .time) s = .next { s with status := s.status ||| 0x80#8, cause := 0x01#8, finfo := 0x08#8 }

/-- CONVERT with a valid sample: byte k of RAW is SMP[127-8k : 120-8k] (41_entropy_capture.md R100, R107). -/
def Obligations.ConvertFillsRaw : Prop :=
  ∀ s : State, Running s → s.flag .smpV = true →
    exec .convert s = .next
      { s with raw := lanes fun k => s.smp.extractLsb' (120 - 8 * k.val) 8, status := s.status ||| 0x02#8 }

/-- PERMUTE with valid RAW: SEED[j] is RAW[PERM[j]] (41_entropy_capture.md R101, R109). -/
def Obligations.PermuteFillsSeed : Prop :=
  ∀ s : State, Running s → s.flag .rawV = true →
    exec .permute s = .next
      { s with seed := lanes fun j => s.raw[s.params.perm.map[j]], status := s.status ||| 0x04#8 }

/-- UNPERMUTE with a valid SEED: RAW[PERM[j]] is SEED[j] (41_entropy_capture.md R103, R110). -/
def Obligations.UnpermuteRecoversRaw : Prop :=
  ∀ s : State, Running s → s.flag .seedV = true →
    ∃ r : Bytes16, (∀ j : Fin 16, r[s.params.perm.map[j]] = s.seed[j]) ∧
      exec .unpermute s = .next { s with raw := r, status := s.status ||| 0x02#8 }

/-- CAPTURE samples and converts, and does not permute (41_entropy_capture.md R108). -/
def Obligations.CaptureResult : Prop :=
  ∀ s : State, Running s →
    (s.ports.clkOk = true → exec (.capture .time) s = .next
      { s with smp := s.ports.clkNs, raw := beBytes s.ports.clkNs, status := (s.status ||| 0x03#8) &&& 0xDF#8 }) ∧
    exec (.capture .address) s = .next
      { s with smp := drawAddr s, raw := beBytes (drawAddr s), status := s.status ||| 0x33#8 }

/-- SEEDGEN samples, converts and permutes (41_entropy_capture.md R111). -/
def Obligations.SeedgenResult : Prop :=
  ∀ s : State, Running s →
    (s.ports.clkOk = true → exec (.seedgen .time) s = .next
      { s with smp := s.ports.clkNs, raw := beBytes s.ports.clkNs, seed := shuffle s.params.perm (beBytes s.ports.clkNs),
               status := (s.status ||| 0x07#8) &&& 0xDF#8 }) ∧
    exec (.seedgen .address) s = .next
      { s with smp := drawAddr s, raw := beBytes (drawAddr s), seed := shuffle s.params.perm (beBytes (drawAddr s)),
               status := s.status ||| 0x37#8 }

/-- The four stage commands that find their input register invalid take NO_DATA with FINFO the command byte
(60_exceptions.md R156). -/
def Obligations.InvalidInputFaults : Prop :=
  ∀ s : State, Running s →
    (s.flag .smpV = false →
      exec .convert s = .next { s with status := s.status ||| 0x80#8, cause := 0x05#8, finfo := 0x02#8 }) ∧
    (s.flag .rawV = false →
      exec .permute s = .next { s with status := s.status ||| 0x80#8, cause := 0x05#8, finfo := 0x03#8 }) ∧
    (s.flag .seedV = false →
      exec .unpermute s = .next { s with status := s.status ||| 0x80#8, cause := 0x05#8, finfo := 0x04#8 } ∧
      exec .handoff s = .next { s with status := s.status ||| 0x80#8, cause := 0x05#8, finfo := 0x07#8 })

/-- PERMUTE then UNPERMUTE leaves RAW as it was (41_entropy_capture.md R110). -/
def Obligations.UnpermuteUndoesPermute : Prop :=
  ∀ s : State, Running s → s.flag .rawV = true →
    ∃ u v : State, exec .permute s = .next u ∧ exec .unpermute u = .next v ∧ v.raw = s.raw ∧ v.seed = u.seed

/-! ### Generator factory -/

/-- HANDOFF with a valid SEED: the event, the lanes and the strobe carry SEED as it was; ENG_SEEDED is set; SMP, RAW and SEED
are zero and SMP_V, RAW_V, SEED_V, SMP_KIND clear (42_generator_factory.md R131, 10_state.md R40). -/
def Obligations.HandoffEmitsAndZeroizes : Prop :=
  ∀ s : State, Running s → s.flag .seedV = true →
    exec .handoff s = .next
      { s with smp := 0#128, raw := zeros16, seed := zeros16, status := (s.status ||| 0x08#8) &&& 0xD8#8,
               out := s.out ++ [{ bytes := s.seed }], engSeed := s.seed, engSeedStb := true }

/-- CREATE runs the whole pipeline on its own draw (42_generator_factory.md R132). -/
def Obligations.CreateResult : Prop :=
  ∀ s : State, Running s →
    (s.ports.clkOk = true → exec (.create .time) s = .next
      { s with smp := 0#128, raw := zeros16, seed := zeros16, status := (s.status ||| 0x08#8) &&& 0xD8#8,
               out := s.out ++ [{ bytes := shuffle s.params.perm (beBytes s.ports.clkNs) }],
               engSeed := shuffle s.params.perm (beBytes s.ports.clkNs), engSeedStb := true }) ∧
    exec (.create .address) s = .next
      { s with smp := 0#128, raw := zeros16, seed := zeros16, status := (s.status ||| 0x18#8) &&& 0xD8#8,
               out := s.out ++ [{ bytes := shuffle s.params.perm (beBytes (drawAddr s)) }],
               engSeed := shuffle s.params.perm (beBytes (drawAddr s)), engSeedStb := true }

/-- A composite command that meets a reporting clock is its stage commands run one after the other on one draw: CAPTURE is
SAMPLE, CONVERT; SEEDGEN adds PERMUTE; CREATE adds HANDOFF (41_entropy_capture.md R108, R111, 42_generator_factory.md R132). -/
def Obligations.CompositesAreTheirStages : Prop :=
  ∀ (s : State) (k : Kind), Running s → (k = .time → s.ports.clkOk = true) →
    ∃ s1 s2 s3 s4 : State,
      exec (.sample k) s = .next s1 ∧ exec .convert s1 = .next s2 ∧ exec .permute s2 = .next s3 ∧
      exec .handoff s3 = .next s4 ∧
      exec (.capture k) s = .next s2 ∧ exec (.seedgen k) s = .next s3 ∧ exec (.create k) s = .next s4

/-- After a HANDOFF, and after a CREATE, every byte of RAW, SEED and SMP reads as zero and the three valid bits are 0
(70_reset_and_hazards.md R187). -/
def Obligations.SeedIsGoneAfterHandoff : Prop :=
  ∀ (s : State) (i : Instr), Running s →
    (i = .handoff ∧ s.flag .seedV = true ∨ i = .create .address ∨ i = .create .time ∧ s.ports.clkOk = true) →
    ∃ u : State, exec i s = .next u ∧ (∀ off : Byte, off.toNat < 0x30 → u.regByte off = some 0x00#8) ∧
      u.flag .smpV = false ∧ u.flag .rawV = false ∧ u.flag .seedV = false

/-- CREATE is a function of its draw, the parameters and what the SFE has recorded: what SMP, RAW, SEED and the output port's
lanes and strobe held before does not matter (90_conflicts.md C3, 42_generator_factory.md R132, R135; that the port is a part
of State: notes/assumptions/5.md). -/
def Obligations.CreateForgetsOldData : Prop :=
  ∀ (s : State) (k : Kind) (a : Sample) (r q l : Bytes16) (b : Bool), Running s → (k = .time → s.ports.clkOk = true) →
    exec (.create k) { s with smp := a, raw := r, seed := q, engSeed := l, engSeedStb := b } = exec (.create k) s

/-- Two SFEs that hand off equal seeds, however else they differ, create generators in the same initial state, one new
instance each (42_generator_factory.md R134, R135). That the engine latches each event into a record is the model's
(notes/assumptions/4.md). -/
def Obligations.EqualSeedsStartEqualGenerators : Prop :=
  ∀ (e : Config.Engine) (s t : State), Running s → Running t → s.flag .seedV = true → t.flag .seedV = true →
    s.seed = t.seed →
    ∃ u v : State, exec .handoff s = .next u ∧ exec .handoff t = .next v ∧
      generators e (engineLatch u) = generators e s ++ [e.seedFromBytes s.seed] ∧
      generators e (engineLatch v) = generators e t ++ [e.seedFromBytes s.seed]

/-- Sixteen zero bytes in RAW are permuted and handed off like any seed (42_generator_factory.md R138). -/
def Obligations.ZeroSeedIsDelivered : Prop :=
  ∀ s : State, Running s → s.flag .rawV = true → s.raw = zeros16 →
    ∃ u v : State, exec .permute s = .next u ∧ exec .handoff u = .next v ∧ v.out = s.out ++ [{ bytes := zeros16 }]

/-! ### Faults and the halted state -/

/-- A halted SFE ignores every transaction but a read: nothing changes (60_exceptions.md R158). -/
def Obligations.HaltedIgnoresAllButReads : Prop :=
  ∀ (s : State) (i : Instr), Halted s → (∀ off : Byte, i ≠ .rd8 off) → exec i s = .next s

/-- A step of a halted SFE without a reset keeps every element of 10_state.md R20, so every register and OUT; at most one byte
is returned (60_exceptions.md R158, R159). Around that stand the model's choices: the turn and its port values
(notes/assumptions/1.md, 2.md), the record of the returned byte (3.md), and the end of the output port's pulse of an earlier
HANDOFF, with the strobe low and the lanes 0x00 (10_state.md R40, notes/assumptions/5.md, DEDUCED). -/
def Obligations.HaltedStepKeepsEverything : Prop :=
  ∀ (s : State) (t : Turn) (rest : List Turn) (w : TWord), Halted s → s.pending = t :: rest → t.act = .transact w →
    ∃ bs : List Byte, bs.length ≤ 1 ∧
      step s = .next
        { s with engSeed := zeros16, engSeedStb := false, ports := portsShown t s.tick, pending := rest, tick := s.tick + 1,
                 reads := s.reads ++ bs }

/-- No step but a reset clears FAULT, ENG_SEEDED or ADDR_USED (10_state.md R25, R31, 60_exceptions.md R159). -/
def Obligations.OnlyResetClearsStickyFlags : Prop :=
  ∀ s u : State, NoResetNext s → step s = .next u →
    (s.flag .fault = true → u.flag .fault = true) ∧
    (s.flag .engSeeded = true → u.flag .engSeeded = true) ∧
    (s.flag .addrUsed = true → u.flag .addrUsed = true)

/-- A fault is precise: the instruction that takes one changes FAULT, CAUSE and FINFO and nothing else of the SFE, and records
a cause with its information (60_exceptions.md R151, R157). The record of the byte that a faulting read returns is the model's
(notes/assumptions/3.md). -/
def Obligations.FaultsArePrecise : Prop :=
  ∀ (i : Instr) (s u : State), Running s → exec i s = .next u → Halted u →
    u = { s with status := s.status ||| 0x80#8, cause := u.cause, finfo := u.finfo, reads := u.reads } ∧
    FaultRecord u.cause u.finfo ∧
    (u.reads = s.reads ∨ ∃ off : Byte, i = .rd8 off ∧ u.reads = s.reads ++ [0x00#8])

/-- The composite commands raise no fault but CLOCK_UNAVAILABLE (60_exceptions.md R156, 90_conflicts.md C6). -/
def Obligations.CompositesOnlyFaultOnClock : Prop :=
  ∀ (s u : State) (k : Kind) (i : Instr), Running s → i = .capture k ∨ i = .seedgen k ∨ i = .create k →
    exec i s = .next u → Halted u → k = .time ∧ s.ports.clkOk = false ∧ u.cause = 0x01#8

/-! ### Frames -/

/-- The frame over the register space and the model's records: an instruction that takes no fault leaves every byte it does not
write (STATUS apart) reading as before, bit 6 of STATUS and every flag it does not write as they were, and leaves the
parameters, the ports, the turns to come and the engine's record; only RD8 adds to the reads (10_state.md R22 to R25, R42). -/
def Obligations.FrameOfEveryInstruction : Prop :=
  ∀ (i : Instr) (s u : State), i.WellFormed → exec i s = .next u → u.flag .fault = s.flag .fault →
    (∀ a : Byte, a ≠ 0x30#8 → writesByte i a = false → u.regByte a = s.regByte a) ∧
    (∀ b : StatusBit, writesFlag i b = false → u.flag b = s.flag b) ∧
    u.status.getLsbD 6 = s.status.getLsbD 6 ∧
    u.cause = s.cause ∧ u.finfo = s.finfo ∧
    u.params = s.params ∧ u.ports = s.ports ∧ u.pending = s.pending ∧ u.engineRx = s.engineRx ∧ u.tick = s.tick ∧
    (u.reads = s.reads ∨ ∃ off : Byte, i = .rd8 off ∧ ∃ b : Byte, u.reads = s.reads ++ [b])

/-- OUT and the output port change only by a HANDOFF stage: one event, on the port and in OUT alike, which for HANDOFF
carries SEED (42_generator_factory.md R131, R132, 10_state.md R40). -/
def Obligations.EventsComeOnlyFromHandoff : Prop :=
  ∀ (i : Instr) (s u : State), i.WellFormed → exec i s = .next u →
    (u.out = s.out ∧ u.engSeed = s.engSeed ∧ u.engSeedStb = s.engSeedStb) ∨
    (hasHandoffStage i = true ∧ u.out = s.out ++ [{ bytes := u.engSeed }] ∧ u.engSeedStb = true ∧
      (i = .handoff → u.engSeed = s.seed))

/-- The ports are read only in a SAMPLE stage: an instruction without one does the same whatever they show; a K = 1 one does
not depend on the clock port, and a K = 0 one not on the address port (20_memory.md R65, 41_entropy_capture.md R106). -/
def Obligations.PortsAreReadOnlyBySample : Prop :=
  ∀ (s : State) (p : Ports),
    (∀ i : Instr, i.WellFormed → hasSampleStage i = false →
      exec i { s with ports := p } = onNext (fun u => { u with ports := p }) (exec i s)) ∧
    (p.addrSrc = s.ports.addrSrc →
      ∀ i ∈ [Instr.sample .address, .capture .address, .seedgen .address, .create .address],
        exec i { s with ports := p } = onNext (fun u => { u with ports := p }) (exec i s)) ∧
    (p.clkOk = s.ports.clkOk → p.clkNs = s.ports.clkNs →
      ∀ i ∈ [Instr.sample .time, .capture .time, .seedgen .time, .create .time],
        exec i { s with ports := p } = onNext (fun u => { u with ports := p }) (exec i s))

/-- What a step without a reset adds to OUT is what it adds to what the engine received, at most one event, and the strobe is
high exactly when there is one (20_memory.md R60, R64, 10_state.md R40). The engine's record, and that the pulse lasts from one
step to the next, are the model's (notes/assumptions/4.md, 5.md). -/
def Obligations.EngineReceivesEveryEvent : Prop :=
  ∀ s u : State, NoResetNext s → step s = .next u →
    ∃ evs : List Seeded, evs.length ≤ 1 ∧ u.out = s.out ++ evs ∧ u.engineRx = s.engineRx ++ evs ∧
      (u.engSeedStb = true ↔ evs ≠ [])

/-- No transaction and no reset changes the parameters (10_state.md R42). -/
def Obligations.ParametersAreFixed : Prop :=
  ∀ s u : State, step s = .next u → u.params = s.params

/-! ### Invariants -/

/-- The invariants hold at reset (10_state.md R34, R35, R41). -/
def Obligations.ResetMeetsInvariants : Prop :=
  StatusLegal State.reset ∧ EmptyIsZero State.reset ∧ FaultRecorded State.reset ∧ EventsAgree State.reset

/-- Every step keeps STATUS legal: bit 6 clear, SMP_KIND only with SMP_V and with ADDR_USED (10_state.md R34). -/
def Obligations.StepKeepsStatusLegal : Prop :=
  ∀ s u : State, StatusLegal s → step s = .next u → StatusLegal u

/-- Every step keeps a data register whose valid bit is 0 at zero (10_state.md R26; for RAW and SEED inferred from R25, R41 and
42_generator_factory.md R131). -/
def Obligations.StepKeepsEmptyRegistersZero : Prop :=
  ∀ s u : State, EmptyIsZero s → step s = .next u → EmptyIsZero u

/-- Every step keeps the fault registers consistent: no fault recorded while FAULT = 0, and while FAULT = 1 a cause of the
table with an information byte that this cause records (10_state.md R32, R33, R35, 60_exceptions.md R151). -/
def Obligations.StepKeepsFaultRecorded : Prop :=
  ∀ s u : State, FaultRecorded s → step s = .next u → FaultRecorded u

/-- Every step keeps ENG_SEEDED, OUT, the output port and what the engine received in agreement: ENG_SEEDED says an event was
emitted since reset, the lanes carry the last one while the strobe is high and hold 0x00, so nothing of a seed, while it is low,
and the engine received every event of OUT in order (10_state.md R29, R40, 20_memory.md R64, 42_generator_factory.md R135). That
the lanes are 0x00 while the strobe is low is the model's inference, and the engine's record is the model's
(notes/assumptions/5.md, 4.md). -/
def Obligations.StepKeepsEventsAgreed : Prop :=
  ∀ s u : State, EventsAgree s → step s = .next u → EventsAgree u
end

