-- ==== Sys2Proof/Laws/Lanes.lean ====
section
/-! SUPPORT. Byte arrays by element, and the permutation and its inverse. -/

namespace Sys2Proof

/-- Element i of `lanes f` is `f i`. -/
@[simp] theorem lanes_get {α : Type} (f : Fin 16 → α) (i : Fin 16) : (lanes f)[i] = f i := by
  revert i; intro ⟨i, hi⟩
  interval_cases i <;> rfl

/-- The same with the index as a number. -/
@[simp] theorem lanes_getElem {α : Type} (f : Fin 16 → α) (i : Nat) (hi : i < 16) : (lanes f)[i] = f ⟨i, hi⟩ :=
  lanes_get f ⟨i, hi⟩

/-- Two 16-element arrays with equal elements are equal. -/
theorem lanes_ext {α : Type} {x y : Vector α 16} (h : ∀ i : Fin 16, x[i] = y[i]) : x = y :=
  Vector.ext fun i hi => h ⟨i, hi⟩

/-- `lanes` of the elements of an array is the array. -/
theorem lanes_self {α : Type} (x : Vector α 16) : (lanes fun i => x[i]) = x := lanes_ext fun i => lanes_get _ i

/-- The elements of an array in order, as a list. -/
theorem toList_lanes {α : Type} (f : Fin 16 → α) : (lanes f).toList = allLanes.map f := rfl

theorem toList_eq_map {α : Type} (x : Vector α 16) : x.toList = allLanes.map fun i => x[i] := by
  conv => lhs; rw [← lanes_self x]
  rfl

/-- An injective map of the sixteen positions rearranges their list. -/
theorem map_allLanes_perm (f : Fin 16 → Fin 16) (hf : Function.Injective f) : (allLanes.map f).Perm allLanes := by
  have h : allLanes = List.finRange 16 := by decide
  rw [h]
  exact Equiv.Perm.map_finRange_perm (Equiv.ofBijective f ⟨hf, Finite.injective_iff_surjective.mp hf⟩)

@[simp] theorem zeros16_get (i : Fin 16) : zeros16[i] = 0#8 := lanes_get _ i

namespace Machine

theorem beBytes_get (v : Sample) (k : Fin 16) : (beBytes v)[k] = beByte v k := lanes_get _ k

theorem shuffle_get (p : Perm) (r : Bytes16) (j : Fin 16) : (shuffle p r)[j] = r[p.map[j]] := lanes_get _ j

theorem unshuffle_get (p : Perm) (s : Bytes16) (i : Fin 16) : (unshuffle p s)[i] = s[permInv p i] := lanes_get _ i

theorem mem_allLanes (i : Fin 16) : i ∈ allLanes := by revert i; decide

/-- A permutation takes every position. -/
theorem perm_surjective (p : Perm) (i : Fin 16) : ∃ j : Fin 16, p.map[j] = i :=
  (Finite.injective_iff_surjective.mp fun a b h => p.injective a b h) i

/-- `PERM[PERM_INV[i]] = i`. -/
theorem perm_permInv (p : Perm) (i : Fin 16) : p.map[permInv p i] = i := by
  obtain ⟨j, hj⟩ := perm_surjective p i
  have hsome : (allLanes.find? fun j => p.map[j] = i).isSome :=
    List.find?_isSome.mpr ⟨j, mem_allLanes j, by simpa using hj⟩
  obtain ⟨m, hm⟩ := Option.isSome_iff_exists.mp hsome
  have hp : p.map[m] = i := by simpa using List.find?_some hm
  have he : permInv p i = m := by unfold permInv; rw [hm]; rfl
  exact he ▸ hp

/-- `PERM_INV[PERM[j]] = j`, which defines PERM_INV (41_entropy_capture.md R103). -/
theorem permInv_perm (p : Perm) (j : Fin 16) : permInv p p.map[j] = j :=
  p.injective _ _ (perm_permInv p p.map[j])

end Machine

end Sys2Proof
end

