-- ==== Sys2Proof/Laws/Flags.lean ====
section
/-! SUPPORT. Reading a flag after writing one, and the reserved bit. -/

namespace Sys2Proof.Machine

/-- A flag after a flag write is the value written, or the old one for another flag. -/
@[simp] theorem getBit_setBit (st : Byte) (b c : StatusBit) (v : Bool) :
    getBit (setBit st b v) c = if b = c then v else getBit st c := by
  cases v <;> cases b <;> cases c <;> simp [getBit, setBit, bitMask, bitPos]

/-- No flag write touches bit 6. -/
@[simp] theorem setBit_bit6 (st : Byte) (b : StatusBit) (v : Bool) :
    (setBit st b v).getLsbD 6 = st.getLsbD 6 := by
  cases v <;> cases b <;> simp [setBit, bitMask, bitPos]

/-- The same, in the form simp gives a bit of known index. -/
@[simp] theorem setBit_get6 (st : Byte) (b : StatusBit) (v : Bool) : (setBit st b v)[6] = st[6] := setBit_bit6 st b v

/-- A read of STATUS shows bit 6 as 0. -/
theorem statusRead_bit6 (st : Byte) : (statusRead st).getLsbD 6 = false := by simp [statusRead]

/-- A read of STATUS shows every named flag. -/
theorem statusRead_getBit (st : Byte) (b : StatusBit) : getBit (statusRead st) b = getBit st b := by
  cases b <;> simp [statusRead, getBit, bitPos]

/-- Setting a flag, as a bitwise OR with its mask. -/
theorem setBit_true (st : Byte) (b : StatusBit) : setBit st b true = st ||| bitMask b := rfl

/-- Clearing a flag, as a bitwise AND with the complement of its mask. -/
theorem setBit_false (st : Byte) (b : StatusBit) : setBit st b false = st &&& ~~~(bitMask b) := rfl

end Sys2Proof.Machine
end

