-- ==== Sys2Proof/Laws/State.lean ====
section
/-! SUPPORT. What each update of the state leaves in each field, one lemma per field per update. -/

namespace Sys2Proof.Machine

/-! ### withFlag -/

@[simp] theorem State.withFlag_smp (s : State) (b : StatusBit) (v : Bool) : (s.withFlag b v).smp = s.smp := rfl
@[simp] theorem State.withFlag_raw (s : State) (b : StatusBit) (v : Bool) : (s.withFlag b v).raw = s.raw := rfl
@[simp] theorem State.withFlag_seed (s : State) (b : StatusBit) (v : Bool) : (s.withFlag b v).seed = s.seed := rfl
@[simp] theorem State.withFlag_status (s : State) (b : StatusBit) (v : Bool) :
    (s.withFlag b v).status = setBit s.status b v := rfl
@[simp] theorem State.withFlag_cause (s : State) (b : StatusBit) (v : Bool) : (s.withFlag b v).cause = s.cause := rfl
@[simp] theorem State.withFlag_finfo (s : State) (b : StatusBit) (v : Bool) : (s.withFlag b v).finfo = s.finfo := rfl
@[simp] theorem State.withFlag_out (s : State) (b : StatusBit) (v : Bool) : (s.withFlag b v).out = s.out := rfl
@[simp] theorem State.withFlag_engSeed (s : State) (b : StatusBit) (v : Bool) :
    (s.withFlag b v).engSeed = s.engSeed := rfl
@[simp] theorem State.withFlag_engSeedStb (s : State) (b : StatusBit) (v : Bool) :
    (s.withFlag b v).engSeedStb = s.engSeedStb := rfl
@[simp] theorem State.withFlag_params (s : State) (b : StatusBit) (v : Bool) : (s.withFlag b v).params = s.params := rfl
@[simp] theorem State.withFlag_ports (s : State) (b : StatusBit) (v : Bool) : (s.withFlag b v).ports = s.ports := rfl
@[simp] theorem State.withFlag_pending (s : State) (b : StatusBit) (v : Bool) :
    (s.withFlag b v).pending = s.pending := rfl
@[simp] theorem State.withFlag_reads (s : State) (b : StatusBit) (v : Bool) : (s.withFlag b v).reads = s.reads := rfl
@[simp] theorem State.withFlag_engineRx (s : State) (b : StatusBit) (v : Bool) :
    (s.withFlag b v).engineRx = s.engineRx := rfl
@[simp] theorem State.withFlag_tick (s : State) (b : StatusBit) (v : Bool) : (s.withFlag b v).tick = s.tick := rfl

/-! ### takeFault -/

@[simp] theorem takeFault_smp (c : Cause) (d : Byte) (s : State) : (takeFault c d s).smp = s.smp := rfl
@[simp] theorem takeFault_raw (c : Cause) (d : Byte) (s : State) : (takeFault c d s).raw = s.raw := rfl
@[simp] theorem takeFault_seed (c : Cause) (d : Byte) (s : State) : (takeFault c d s).seed = s.seed := rfl
@[simp] theorem takeFault_status (c : Cause) (d : Byte) (s : State) :
    (takeFault c d s).status = setBit s.status .fault true := rfl
@[simp] theorem takeFault_cause (c : Cause) (d : Byte) (s : State) : (takeFault c d s).cause = causeCode c := rfl
@[simp] theorem takeFault_finfo (c : Cause) (d : Byte) (s : State) : (takeFault c d s).finfo = d := rfl
@[simp] theorem takeFault_out (c : Cause) (d : Byte) (s : State) : (takeFault c d s).out = s.out := rfl
@[simp] theorem takeFault_engSeed (c : Cause) (d : Byte) (s : State) : (takeFault c d s).engSeed = s.engSeed := rfl
@[simp] theorem takeFault_engSeedStb (c : Cause) (d : Byte) (s : State) :
    (takeFault c d s).engSeedStb = s.engSeedStb := rfl
@[simp] theorem takeFault_params (c : Cause) (d : Byte) (s : State) : (takeFault c d s).params = s.params := rfl
@[simp] theorem takeFault_ports (c : Cause) (d : Byte) (s : State) : (takeFault c d s).ports = s.ports := rfl
@[simp] theorem takeFault_pending (c : Cause) (d : Byte) (s : State) : (takeFault c d s).pending = s.pending := rfl
@[simp] theorem takeFault_reads (c : Cause) (d : Byte) (s : State) : (takeFault c d s).reads = s.reads := rfl
@[simp] theorem takeFault_engineRx (c : Cause) (d : Byte) (s : State) : (takeFault c d s).engineRx = s.engineRx := rfl
@[simp] theorem takeFault_tick (c : Cause) (d : Byte) (s : State) : (takeFault c d s).tick = s.tick := rfl

/-! ### latchSample -/

@[simp] theorem latchSample_smp (k : Kind) (v : Sample) (s : State) : (latchSample k v s).smp = v := rfl
@[simp] theorem latchSample_raw (k : Kind) (v : Sample) (s : State) :
    (latchSample k v s).raw = s.raw := by cases k <;> rfl
@[simp] theorem latchSample_seed (k : Kind) (v : Sample) (s : State) :
    (latchSample k v s).seed = s.seed := by cases k <;> rfl
@[simp] theorem latchSample_status (k : Kind) (v : Sample) (s : State) :
    (latchSample k v s).status = (s.flagsSampled k).status := rfl
@[simp] theorem latchSample_cause (k : Kind) (v : Sample) (s : State) :
    (latchSample k v s).cause = s.cause := by cases k <;> rfl
@[simp] theorem latchSample_finfo (k : Kind) (v : Sample) (s : State) :
    (latchSample k v s).finfo = s.finfo := by cases k <;> rfl
@[simp] theorem latchSample_out (k : Kind) (v : Sample) (s : State) :
    (latchSample k v s).out = s.out := by cases k <;> rfl
@[simp] theorem latchSample_engSeed (k : Kind) (v : Sample) (s : State) :
    (latchSample k v s).engSeed = s.engSeed := by cases k <;> rfl
@[simp] theorem latchSample_engSeedStb (k : Kind) (v : Sample) (s : State) :
    (latchSample k v s).engSeedStb = s.engSeedStb := by cases k <;> rfl
@[simp] theorem latchSample_params (k : Kind) (v : Sample) (s : State) :
    (latchSample k v s).params = s.params := by cases k <;> rfl
@[simp] theorem latchSample_ports (k : Kind) (v : Sample) (s : State) :
    (latchSample k v s).ports = s.ports := by cases k <;> rfl
@[simp] theorem latchSample_pending (k : Kind) (v : Sample) (s : State) :
    (latchSample k v s).pending = s.pending := by cases k <;> rfl
@[simp] theorem latchSample_reads (k : Kind) (v : Sample) (s : State) :
    (latchSample k v s).reads = s.reads := by cases k <;> rfl
@[simp] theorem latchSample_engineRx (k : Kind) (v : Sample) (s : State) :
    (latchSample k v s).engineRx = s.engineRx := by cases k <;> rfl
@[simp] theorem latchSample_tick (k : Kind) (v : Sample) (s : State) :
    (latchSample k v s).tick = s.tick := by cases k <;> rfl

/-! ### emitSeeded -/

@[simp] theorem emitSeeded_smp (s : State) : (emitSeeded s).smp = s.smp := rfl
@[simp] theorem emitSeeded_raw (s : State) : (emitSeeded s).raw = s.raw := rfl
@[simp] theorem emitSeeded_seed (s : State) : (emitSeeded s).seed = s.seed := rfl
@[simp] theorem emitSeeded_status (s : State) : (emitSeeded s).status = s.status := rfl
@[simp] theorem emitSeeded_cause (s : State) : (emitSeeded s).cause = s.cause := rfl
@[simp] theorem emitSeeded_finfo (s : State) : (emitSeeded s).finfo = s.finfo := rfl
@[simp] theorem emitSeeded_out (s : State) : (emitSeeded s).out = s.out ++ [{ bytes := s.seed }] := rfl
@[simp] theorem emitSeeded_engSeed (s : State) : (emitSeeded s).engSeed = s.seed := rfl
@[simp] theorem emitSeeded_engSeedStb (s : State) : (emitSeeded s).engSeedStb = true := rfl
@[simp] theorem emitSeeded_params (s : State) : (emitSeeded s).params = s.params := rfl
@[simp] theorem emitSeeded_ports (s : State) : (emitSeeded s).ports = s.ports := rfl
@[simp] theorem emitSeeded_pending (s : State) : (emitSeeded s).pending = s.pending := rfl
@[simp] theorem emitSeeded_reads (s : State) : (emitSeeded s).reads = s.reads := rfl
@[simp] theorem emitSeeded_engineRx (s : State) : (emitSeeded s).engineRx = s.engineRx := rfl
@[simp] theorem emitSeeded_tick (s : State) : (emitSeeded s).tick = s.tick := rfl

/-! ### zeroize -/

@[simp] theorem zeroize_smp (s : State) : (zeroize s).smp = 0#128 := rfl
@[simp] theorem zeroize_raw (s : State) : (zeroize s).raw = zeros16 := rfl
@[simp] theorem zeroize_seed (s : State) : (zeroize s).seed = zeros16 := rfl
@[simp] theorem zeroize_status (s : State) : (zeroize s).status = s.status := rfl
@[simp] theorem zeroize_cause (s : State) : (zeroize s).cause = s.cause := rfl
@[simp] theorem zeroize_finfo (s : State) : (zeroize s).finfo = s.finfo := rfl
@[simp] theorem zeroize_out (s : State) : (zeroize s).out = s.out := rfl
@[simp] theorem zeroize_engSeed (s : State) : (zeroize s).engSeed = s.engSeed := rfl
@[simp] theorem zeroize_engSeedStb (s : State) : (zeroize s).engSeedStb = s.engSeedStb := rfl
@[simp] theorem zeroize_params (s : State) : (zeroize s).params = s.params := rfl
@[simp] theorem zeroize_ports (s : State) : (zeroize s).ports = s.ports := rfl
@[simp] theorem zeroize_pending (s : State) : (zeroize s).pending = s.pending := rfl
@[simp] theorem zeroize_reads (s : State) : (zeroize s).reads = s.reads := rfl
@[simp] theorem zeroize_engineRx (s : State) : (zeroize s).engineRx = s.engineRx := rfl
@[simp] theorem zeroize_tick (s : State) : (zeroize s).tick = s.tick := rfl

/-! ### flagsHandedOff -/

@[simp] theorem State.flagsHandedOff_smp (s : State) : s.flagsHandedOff.smp = s.smp := rfl
@[simp] theorem State.flagsHandedOff_raw (s : State) : s.flagsHandedOff.raw = s.raw := rfl
@[simp] theorem State.flagsHandedOff_seed (s : State) : s.flagsHandedOff.seed = s.seed := rfl
@[simp] theorem State.flagsHandedOff_status (s : State) :
    s.flagsHandedOff.status = setBit (setBit (setBit (setBit (setBit s.status .engSeeded true) .smpV false) .rawV false) .seedV false) .smpKind false := rfl
@[simp] theorem State.flagsHandedOff_cause (s : State) : s.flagsHandedOff.cause = s.cause := rfl
@[simp] theorem State.flagsHandedOff_finfo (s : State) : s.flagsHandedOff.finfo = s.finfo := rfl
@[simp] theorem State.flagsHandedOff_out (s : State) : s.flagsHandedOff.out = s.out := rfl
@[simp] theorem State.flagsHandedOff_engSeed (s : State) : s.flagsHandedOff.engSeed = s.engSeed := rfl
@[simp] theorem State.flagsHandedOff_engSeedStb (s : State) : s.flagsHandedOff.engSeedStb = s.engSeedStb := rfl
@[simp] theorem State.flagsHandedOff_params (s : State) : s.flagsHandedOff.params = s.params := rfl
@[simp] theorem State.flagsHandedOff_ports (s : State) : s.flagsHandedOff.ports = s.ports := rfl
@[simp] theorem State.flagsHandedOff_pending (s : State) : s.flagsHandedOff.pending = s.pending := rfl
@[simp] theorem State.flagsHandedOff_reads (s : State) : s.flagsHandedOff.reads = s.reads := rfl
@[simp] theorem State.flagsHandedOff_engineRx (s : State) : s.flagsHandedOff.engineRx = s.engineRx := rfl
@[simp] theorem State.flagsHandedOff_tick (s : State) : s.flagsHandedOff.tick = s.tick := rfl

/-! ### returnByte -/

@[simp] theorem returnByte_smp (b : Byte) (s : State) : (returnByte b s).smp = s.smp := rfl
@[simp] theorem returnByte_raw (b : Byte) (s : State) : (returnByte b s).raw = s.raw := rfl
@[simp] theorem returnByte_seed (b : Byte) (s : State) : (returnByte b s).seed = s.seed := rfl
@[simp] theorem returnByte_status (b : Byte) (s : State) : (returnByte b s).status = s.status := rfl
@[simp] theorem returnByte_cause (b : Byte) (s : State) : (returnByte b s).cause = s.cause := rfl
@[simp] theorem returnByte_finfo (b : Byte) (s : State) : (returnByte b s).finfo = s.finfo := rfl
@[simp] theorem returnByte_out (b : Byte) (s : State) : (returnByte b s).out = s.out := rfl
@[simp] theorem returnByte_engSeed (b : Byte) (s : State) : (returnByte b s).engSeed = s.engSeed := rfl
@[simp] theorem returnByte_engSeedStb (b : Byte) (s : State) : (returnByte b s).engSeedStb = s.engSeedStb := rfl
@[simp] theorem returnByte_params (b : Byte) (s : State) : (returnByte b s).params = s.params := rfl
@[simp] theorem returnByte_ports (b : Byte) (s : State) : (returnByte b s).ports = s.ports := rfl
@[simp] theorem returnByte_pending (b : Byte) (s : State) : (returnByte b s).pending = s.pending := rfl
@[simp] theorem returnByte_reads (b : Byte) (s : State) : (returnByte b s).reads = s.reads ++ [b] := rfl
@[simp] theorem returnByte_engineRx (b : Byte) (s : State) : (returnByte b s).engineRx = s.engineRx := rfl
@[simp] theorem returnByte_tick (b : Byte) (s : State) : (returnByte b s).tick = s.tick := rfl

/-! ### endPulse -/

@[simp] theorem endPulse_smp (s : State) : (endPulse s).smp = s.smp := rfl
@[simp] theorem endPulse_raw (s : State) : (endPulse s).raw = s.raw := rfl
@[simp] theorem endPulse_seed (s : State) : (endPulse s).seed = s.seed := rfl
@[simp] theorem endPulse_status (s : State) : (endPulse s).status = s.status := rfl
@[simp] theorem endPulse_cause (s : State) : (endPulse s).cause = s.cause := rfl
@[simp] theorem endPulse_finfo (s : State) : (endPulse s).finfo = s.finfo := rfl
@[simp] theorem endPulse_out (s : State) : (endPulse s).out = s.out := rfl
@[simp] theorem endPulse_engSeed (s : State) : (endPulse s).engSeed = zeros16 := rfl
@[simp] theorem endPulse_engSeedStb (s : State) : (endPulse s).engSeedStb = false := rfl
@[simp] theorem endPulse_params (s : State) : (endPulse s).params = s.params := rfl
@[simp] theorem endPulse_ports (s : State) : (endPulse s).ports = s.ports := rfl
@[simp] theorem endPulse_pending (s : State) : (endPulse s).pending = s.pending := rfl
@[simp] theorem endPulse_reads (s : State) : (endPulse s).reads = s.reads := rfl
@[simp] theorem endPulse_engineRx (s : State) : (endPulse s).engineRx = s.engineRx := rfl
@[simp] theorem endPulse_tick (s : State) : (endPulse s).tick = s.tick := rfl

/-! ### beginTurn -/

@[simp] theorem beginTurn_smp (t : Turn) (rest : List Turn) (s : State) : (beginTurn t rest s).smp = s.smp := rfl
@[simp] theorem beginTurn_raw (t : Turn) (rest : List Turn) (s : State) : (beginTurn t rest s).raw = s.raw := rfl
@[simp] theorem beginTurn_seed (t : Turn) (rest : List Turn) (s : State) : (beginTurn t rest s).seed = s.seed := rfl
@[simp] theorem beginTurn_status (t : Turn) (rest : List Turn) (s : State) :
    (beginTurn t rest s).status = s.status := rfl
@[simp] theorem beginTurn_cause (t : Turn) (rest : List Turn) (s : State) : (beginTurn t rest s).cause = s.cause := rfl
@[simp] theorem beginTurn_finfo (t : Turn) (rest : List Turn) (s : State) : (beginTurn t rest s).finfo = s.finfo := rfl
@[simp] theorem beginTurn_out (t : Turn) (rest : List Turn) (s : State) : (beginTurn t rest s).out = s.out := rfl
@[simp] theorem beginTurn_engSeed (t : Turn) (rest : List Turn) (s : State) :
    (beginTurn t rest s).engSeed = zeros16 := rfl
@[simp] theorem beginTurn_engSeedStb (t : Turn) (rest : List Turn) (s : State) :
    (beginTurn t rest s).engSeedStb = false := rfl
@[simp] theorem beginTurn_params (t : Turn) (rest : List Turn) (s : State) :
    (beginTurn t rest s).params = s.params := rfl
@[simp] theorem beginTurn_ports (t : Turn) (rest : List Turn) (s : State) :
    (beginTurn t rest s).ports = portsShown t s.tick := rfl
@[simp] theorem beginTurn_pending (t : Turn) (rest : List Turn) (s : State) : (beginTurn t rest s).pending = rest := rfl
@[simp] theorem beginTurn_reads (t : Turn) (rest : List Turn) (s : State) : (beginTurn t rest s).reads = s.reads := rfl
@[simp] theorem beginTurn_engineRx (t : Turn) (rest : List Turn) (s : State) :
    (beginTurn t rest s).engineRx = s.engineRx := rfl
@[simp] theorem beginTurn_tick (t : Turn) (rest : List Turn) (s : State) : (beginTurn t rest s).tick = s.tick + 1 := rfl

/-! ### flagsSampled and engineLatch -/

theorem State.flagsSampled_time_status (s : State) :
    (s.flagsSampled .time).status = setBit (setBit s.status .smpV true) .smpKind false := rfl

theorem State.flagsSampled_address_status (s : State) :
    (s.flagsSampled .address).status =
      setBit (setBit (setBit s.status .addrUsed true) .smpV true) .smpKind true := rfl

@[simp] theorem engineLatch_smp (s : State) : (engineLatch s).smp = s.smp := by
  unfold engineLatch; split <;> rfl
@[simp] theorem engineLatch_raw (s : State) : (engineLatch s).raw = s.raw := by
  unfold engineLatch; split <;> rfl
@[simp] theorem engineLatch_seed (s : State) : (engineLatch s).seed = s.seed := by
  unfold engineLatch; split <;> rfl
@[simp] theorem engineLatch_status (s : State) : (engineLatch s).status = s.status := by
  unfold engineLatch; split <;> rfl
@[simp] theorem engineLatch_cause (s : State) : (engineLatch s).cause = s.cause := by
  unfold engineLatch; split <;> rfl
@[simp] theorem engineLatch_finfo (s : State) : (engineLatch s).finfo = s.finfo := by
  unfold engineLatch; split <;> rfl
@[simp] theorem engineLatch_out (s : State) : (engineLatch s).out = s.out := by
  unfold engineLatch; split <;> rfl
@[simp] theorem engineLatch_engSeed (s : State) : (engineLatch s).engSeed = s.engSeed := by
  unfold engineLatch; split <;> rfl
@[simp] theorem engineLatch_engSeedStb (s : State) : (engineLatch s).engSeedStb = s.engSeedStb := by
  unfold engineLatch; split <;> rfl
@[simp] theorem engineLatch_params (s : State) : (engineLatch s).params = s.params := by
  unfold engineLatch; split <;> rfl
@[simp] theorem engineLatch_ports (s : State) : (engineLatch s).ports = s.ports := by
  unfold engineLatch; split <;> rfl
@[simp] theorem engineLatch_pending (s : State) : (engineLatch s).pending = s.pending := by
  unfold engineLatch; split <;> rfl
@[simp] theorem engineLatch_reads (s : State) : (engineLatch s).reads = s.reads := by
  unfold engineLatch; split <;> rfl
@[simp] theorem engineLatch_engineRx (s : State) :
    (engineLatch s).engineRx =
      if s.engSeedStb then s.engineRx ++ [{ bytes := s.engSeed }] else s.engineRx := by
  unfold engineLatch; split <;> rfl
@[simp] theorem engineLatch_tick (s : State) : (engineLatch s).tick = s.tick := by
  unfold engineLatch; split <;> rfl

/-- The STATUS byte after a SAMPLE stage of the clock. -/
theorem flagsSampled_time_byte (s : State) : (s.flagsSampled .time).status = (s.status ||| 0x01#8) &&& 0xDF#8 := rfl

/-- The STATUS byte after a SAMPLE stage of the address. -/
theorem flagsSampled_address_byte (s : State) : (s.flagsSampled .address).status = s.status ||| 0x31#8 := by
  have key : ∀ st : Byte, setBit (setBit (setBit st .addrUsed true) .smpV true) .smpKind true = st ||| 0x31#8 := by decide
  exact key s.status

/-- The STATUS byte after the flag writes of a HANDOFF. -/
theorem flagsHandedOff_byte (s : State) : s.flagsHandedOff.status = (s.status ||| 0x08#8) &&& 0xD8#8 := by
  have key : ∀ st : Byte, setBit (setBit (setBit (setBit (setBit st .engSeeded true) .smpV false) .rawV false) .seedV false)
      .smpKind false = (st ||| 0x08#8) &&& 0xD8#8 := by decide
  exact key s.status

/-! ### takeReset -/

@[simp] theorem takeReset_smp (s : State) : (takeReset s).smp = State.reset.smp := rfl
@[simp] theorem takeReset_raw (s : State) : (takeReset s).raw = State.reset.raw := rfl
@[simp] theorem takeReset_seed (s : State) : (takeReset s).seed = State.reset.seed := rfl
@[simp] theorem takeReset_status (s : State) : (takeReset s).status = State.reset.status := rfl
@[simp] theorem takeReset_cause (s : State) : (takeReset s).cause = State.reset.cause := rfl
@[simp] theorem takeReset_finfo (s : State) : (takeReset s).finfo = State.reset.finfo := rfl
@[simp] theorem takeReset_out (s : State) : (takeReset s).out = State.reset.out := rfl
@[simp] theorem takeReset_engSeed (s : State) : (takeReset s).engSeed = State.reset.engSeed := rfl
@[simp] theorem takeReset_engSeedStb (s : State) : (takeReset s).engSeedStb = State.reset.engSeedStb := rfl
@[simp] theorem takeReset_params (s : State) : (takeReset s).params = s.params := rfl
@[simp] theorem takeReset_ports (s : State) : (takeReset s).ports = s.ports := rfl
@[simp] theorem takeReset_pending (s : State) : (takeReset s).pending = s.pending := rfl
@[simp] theorem takeReset_reads (s : State) : (takeReset s).reads = s.reads := rfl
@[simp] theorem takeReset_engineRx (s : State) : (takeReset s).engineRx = s.engineRx := rfl
@[simp] theorem takeReset_tick (s : State) : (takeReset s).tick = s.tick := rfl

/-! ### Flags of an updated state -/

@[simp] theorem flag_of_status (s : State) (st : Byte) (b : StatusBit) :
    ({ s with status := st } : State).flag b = getBit st b := rfl

@[simp] theorem State.flag_withFlag (s : State) (b c : StatusBit) (v : Bool) :
    (s.withFlag b v).flag c = if b = c then v else s.flag c := getBit_setBit s.status b c v

@[simp] theorem takeFault_flag (c : Cause) (d : Byte) (s : State) (b : StatusBit) :
    (takeFault c d s).flag b = if StatusBit.fault = b then true else s.flag b := getBit_setBit s.status .fault b true

@[simp] theorem returnByte_flag (b : Byte) (s : State) (c : StatusBit) : (returnByte b s).flag c = s.flag c := rfl

@[simp] theorem emitSeeded_flag (s : State) (c : StatusBit) : (emitSeeded s).flag c = s.flag c := rfl

@[simp] theorem zeroize_flag (s : State) (c : StatusBit) : (zeroize s).flag c = s.flag c := rfl

@[simp] theorem endPulse_flag (s : State) (c : StatusBit) : (endPulse s).flag c = s.flag c := rfl

@[simp] theorem beginTurn_flag (t : Turn) (rest : List Turn) (s : State) (c : StatusBit) :
    (beginTurn t rest s).flag c = s.flag c := rfl

@[simp] theorem engineLatch_flag (s : State) (c : StatusBit) : (engineLatch s).flag c = s.flag c := by
  simp [State.flag]

/-- Every flag is 0 after a reset. -/
@[simp] theorem takeReset_flag (s : State) (c : StatusBit) : (takeReset s).flag c = false := by
  cases c <;> simp [State.flag, getBit, State.reset, bitPos]

/-- The flags after a SAMPLE stage of kind k. -/
theorem latchSample_flag (k : Kind) (v : Sample) (s : State) (c : StatusBit) :
    (latchSample k v s).flag c =
      match c with
      | .smpV => true
      | .smpKind => smpKindOf k
      | .addrUsed => smpKindOf k || s.flag .addrUsed
      | c => s.flag c := by
  cases k <;> cases c <;> simp [latchSample, State.flagsSampled, State.flag, State.withFlag, getBit_setBit, smpKindOf]

/-- The flags after the flag writes of a HANDOFF. -/
theorem flagsHandedOff_flag (s : State) (c : StatusBit) :
    s.flagsHandedOff.flag c =
      match c with
      | .engSeeded => true
      | .smpV | .rawV | .seedV | .smpKind => false
      | c => s.flag c := by
  cases c <;> simp [State.flagsHandedOff]

end Sys2Proof.Machine
end

