-- ==== Sys2Proof/Laws/Ops.lean ====
section
/-! SUPPORT. What each shared operation can do, said once: the stages, a command, a host read and write, an instruction, a step. -/

namespace Sys2Proof.Machine

/-! ### Stages -/

theorem thenStage_ok {f g : Stage} {s u : State} :
    thenStage f g s = .ok u ↔ ∃ t, f s = .ok t ∧ g t = .ok u := by
  unfold thenStage
  cases f s <;> simp

theorem thenStage_error {f g : Stage} {s : State} {c : Cause} :
    thenStage f g s = .error c ↔ f s = .error c ∨ ∃ t, f s = .ok t ∧ g t = .error c := by
  unfold thenStage
  cases f s <;> simp

/-- A SAMPLE stage answers a latched value, the clock's when it reports one, or the extended address. -/
theorem stageSample_ok {k : Kind} {s t : State} :
    stageSample k s = .ok t ↔
      (k = .time ∧ s.ports.clkOk = true ∧ t = latchSample .time s.ports.clkNs s) ∨
      (k = .address ∧ t = latchSample .address (drawAddr s) s) := by
  cases k
  · cases h : s.ports.clkOk <;> simp [stageSample, drawClock, h]
    exact ⟨Eq.symm, Eq.symm⟩
  · simp only [stageSample, Except.ok.injEq, reduceCtorEq, false_and, true_and, false_or]
    exact ⟨Eq.symm, Eq.symm⟩

/-- A SAMPLE stage fails only for a clock that reports nothing. -/
theorem stageSample_error {k : Kind} {s : State} {c : Cause} :
    stageSample k s = .error c ↔ k = .time ∧ s.ports.clkOk = false ∧ c = .clockUnavailable := by
  cases k
  · cases h : s.ports.clkOk <;> simp [stageSample, drawClock, h, eq_comm]
  · simp [stageSample]

theorem stageConvert_ok {s t : State} :
    stageConvert s = .ok t ↔
      s.flag .smpV = true ∧ t = { s.withFlag .rawV true with raw := beBytes s.smp } := by
  cases h : s.flag .smpV <;> simp [stageConvert, h, eq_comm]

theorem stageConvert_error {s : State} {c : Cause} :
    stageConvert s = .error c ↔ s.flag .smpV = false ∧ c = .noData := by
  cases h : s.flag .smpV <;> simp [stageConvert, h, eq_comm]

theorem stagePermute_ok {s t : State} :
    stagePermute s = .ok t ↔
      s.flag .rawV = true ∧ t = { s.withFlag .seedV true with seed := shuffle s.params.perm s.raw } := by
  cases h : s.flag .rawV <;> simp [stagePermute, h, eq_comm]

theorem stagePermute_error {s : State} {c : Cause} :
    stagePermute s = .error c ↔ s.flag .rawV = false ∧ c = .noData := by
  cases h : s.flag .rawV <;> simp [stagePermute, h, eq_comm]

theorem stageUnpermute_ok {s t : State} :
    stageUnpermute s = .ok t ↔
      s.flag .seedV = true ∧ t = { s.withFlag .rawV true with raw := unshuffle s.params.perm s.seed } := by
  cases h : s.flag .seedV <;> simp [stageUnpermute, h, eq_comm]

theorem stageUnpermute_error {s : State} {c : Cause} :
    stageUnpermute s = .error c ↔ s.flag .seedV = false ∧ c = .noData := by
  cases h : s.flag .seedV <;> simp [stageUnpermute, h, eq_comm]

theorem stageHandoff_ok {s t : State} :
    stageHandoff s = .ok t ↔ s.flag .seedV = true ∧ t = (zeroize (emitSeeded s)).flagsHandedOff := by
  cases h : s.flag .seedV <;> simp [stageHandoff, h, eq_comm]

theorem stageHandoff_error {s : State} {c : Cause} :
    stageHandoff s = .error c ↔ s.flag .seedV = false ∧ c = .noData := by
  cases h : s.flag .seedV <;> simp [stageHandoff, h, eq_comm]

/-- After SAMPLE, CONVERT finds its sample. -/
theorem latchSample_converts (k : Kind) (v : Sample) (s : State) :
    stageConvert (latchSample k v s) =
      .ok { (latchSample k v s).withFlag .rawV true with raw := beBytes v } :=
  stageConvert_ok.mpr ⟨by simp [latchSample_flag], rfl⟩

/-- A CAPTURE fails only where its SAMPLE does. -/
theorem stageCapture_error {k : Kind} {s : State} {c : Cause} :
    stageCapture k s = .error c ↔ k = .time ∧ s.ports.clkOk = false ∧ c = .clockUnavailable := by
  unfold stageCapture
  rw [thenStage_error, stageSample_error]
  constructor
  · rintro (h | ⟨t, ht, he⟩)
    · exact h
    · rcases stageSample_ok.mp ht with ⟨_, _, rfl⟩ | ⟨_, rfl⟩ <;> simp [latchSample_converts] at he
  · exact .inl

/-- A SEEDGEN fails only where its SAMPLE does. -/
theorem stageSeedgen_error {k : Kind} {s : State} {c : Cause} :
    stageSeedgen k s = .error c ↔ k = .time ∧ s.ports.clkOk = false ∧ c = .clockUnavailable := by
  unfold stageSeedgen
  rw [thenStage_error, stageCapture_error]
  constructor
  · rintro (h | ⟨t, ht, he⟩)
    · exact h
    · obtain ⟨u, _, hu⟩ := thenStage_ok.mp ht
      obtain ⟨_, rfl⟩ := stageConvert_ok.mp hu
      simp [stagePermute_error, State.flag] at he
  · exact .inl

/-- A CREATE fails only where its SAMPLE does. -/
theorem stageCreate_error {k : Kind} {s : State} {c : Cause} :
    stageCreate k s = .error c ↔ k = .time ∧ s.ports.clkOk = false ∧ c = .clockUnavailable := by
  unfold stageCreate
  rw [thenStage_error, stageSeedgen_error]
  constructor
  · rintro (h | ⟨t, ht, he⟩)
    · exact h
    · obtain ⟨u, _, hu⟩ := thenStage_ok.mp ht
      obtain ⟨_, rfl⟩ := stagePermute_ok.mp hu
      simp [stageHandoff_error, State.flag] at he
  · exact .inl

/-! ### What the stages of a composite leave, when the clock reports -/

/-- The clock, if the kind needs it, reports a duration. -/
abbrev CanSample (k : Kind) (s : State) : Prop := k = .time → s.ports.clkOk = true

/-- The state a SAMPLE stage leaves. -/
def afterSample (k : Kind) (s : State) : State :=
  match k with
  | .time => latchSample .time s.ports.clkNs s
  | .address => latchSample .address (drawAddr s) s

/-- The state SAMPLE, CONVERT leave. -/
def afterCapture (k : Kind) (s : State) : State :=
  { (afterSample k s).withFlag .rawV true with raw := beBytes (afterSample k s).smp }

/-- The state SAMPLE, CONVERT, PERMUTE leave. -/
def afterSeedgen (k : Kind) (s : State) : State :=
  { (afterCapture k s).withFlag .seedV true with seed := shuffle s.params.perm (afterCapture k s).raw }

/-- The state SAMPLE, CONVERT, PERMUTE, HANDOFF leave. -/
def afterCreate (k : Kind) (s : State) : State := (zeroize (emitSeeded (afterSeedgen k s))).flagsHandedOff

theorem stageSample_afterSample {k : Kind} {s : State} (h : CanSample k s) :
    stageSample k s = .ok (afterSample k s) := by
  cases k
  · exact stageSample_ok.mpr (.inl ⟨rfl, h rfl, rfl⟩)
  · exact stageSample_ok.mpr (.inr ⟨rfl, rfl⟩)

theorem stageConvert_afterSample (k : Kind) (s : State) : stageConvert (afterSample k s) = .ok (afterCapture k s) :=
  stageConvert_ok.mpr ⟨by cases k <;> simp [afterSample, latchSample_flag], rfl⟩

theorem stagePermute_afterCapture (k : Kind) (s : State) :
    stagePermute (afterCapture k s) = .ok (afterSeedgen k s) :=
  stagePermute_ok.mpr ⟨by simp [afterCapture, State.flag], by cases k <;> rfl⟩

theorem stageHandoff_afterSeedgen (k : Kind) (s : State) :
    stageHandoff (afterSeedgen k s) = .ok (afterCreate k s) :=
  stageHandoff_ok.mpr ⟨by simp [afterSeedgen, State.flag], rfl⟩

theorem stageCapture_afterCapture {k : Kind} {s : State} (h : CanSample k s) :
    stageCapture k s = .ok (afterCapture k s) :=
  thenStage_ok.mpr ⟨_, stageSample_afterSample h, stageConvert_afterSample k s⟩

theorem stageSeedgen_afterSeedgen {k : Kind} {s : State} (h : CanSample k s) :
    stageSeedgen k s = .ok (afterSeedgen k s) :=
  thenStage_ok.mpr ⟨_, stageCapture_afterCapture h, stagePermute_afterCapture k s⟩

theorem stageCreate_afterCreate {k : Kind} {s : State} (h : CanSample k s) :
    stageCreate k s = .ok (afterCreate k s) :=
  thenStage_ok.mpr ⟨_, stageSeedgen_afterSeedgen h, stageHandoff_afterSeedgen k s⟩

/-! ### Commands -/

/-- A command is ignored, or leaves what its stages leave, or takes the fault of one. -/
theorem runCommand_cases (d : Byte) (f : Stage) (s : State) :
    (s.halted = true ∧ runCommand d f s = s) ∨
    (s.halted = false ∧ ∃ t, f s = .ok t ∧ runCommand d f s = t) ∨
    (s.halted = false ∧ ∃ c, f s = .error c ∧ runCommand d f s = takeFault c d s) := by
  unfold runCommand
  cases s.halted
  · cases f s <;> simp
  · simp

theorem runCommand_halted {s : State} (h : s.halted = true) (d : Byte) (f : Stage) : runCommand d f s = s := by
  simp [runCommand, h]

theorem runCommand_ok {d : Byte} {f : Stage} {s t : State} (h : s.halted = false) (hf : f s = .ok t) :
    runCommand d f s = t := by
  simp [runCommand, h, hf]

theorem runCommand_error {d : Byte} {f : Stage} {s : State} {c : Cause} (h : s.halted = false)
    (hf : f s = .error c) : runCommand d f s = takeFault c d s := by
  simp [runCommand, h, hf]

/-! ### Host accesses -/

/-- A read returns the byte that stands there, or returns 0x00, with the fault unless halted. -/
theorem hostRead_cases (off : Byte) (s : State) :
    (∃ b, s.regByte off = some b ∧ hostRead off s = returnByte b s) ∨
    (s.regByte off = none ∧ s.halted = true ∧ hostRead off s = returnByte 0x00#8 s) ∨
    (s.regByte off = none ∧ s.halted = false ∧
      hostRead off s = returnByte 0x00#8 (takeFault .illegalRead off s)) := by
  unfold hostRead
  cases s.regByte off <;> cases s.halted <;> simp

/-- A write is ignored, or goes to one element of RAW, or takes the fault. -/
theorem hostWrite_cases (off d : Byte) (s : State) :
    (s.halted = true ∧ hostWrite off d s = s) ∨
    (s.halted = false ∧ ∃ i, regOf off = .raw i ∧
      hostWrite off d s = { s.withFlag .rawV true with raw := s.raw.set i d }) ∨
    (s.halted = false ∧ (∀ i, regOf off ≠ .raw i) ∧ hostWrite off d s = takeFault .illegalWrite off s) := by
  unfold hostWrite
  cases s.halted
  · cases regOf off <;> simp
  · simp

/-! ### Instructions -/

/-- The stages of a command. -/
def stageOf : Command → Stage
  | .nop => .ok
  | .sample k => stageSample k
  | .convert => stageConvert
  | .permute => stagePermute
  | .unpermute => stageUnpermute
  | .capture k => stageCapture k
  | .seedgen k => stageSeedgen k
  | .handoff => stageHandoff
  | .create k => stageCreate k

/-- A relation that is reflexive, transitive and kept by the five single stages is kept by the stages of every command. -/
theorem stageOf_keeps {R : State → State → Prop} (refl : ∀ s, R s s) (trans : ∀ s t u, R s t → R t u → R s u)
    (hsample : ∀ k s t, stageSample k s = .ok t → R s t) (hconvert : ∀ s t, stageConvert s = .ok t → R s t)
    (hpermute : ∀ s t, stagePermute s = .ok t → R s t) (hunpermute : ∀ s t, stageUnpermute s = .ok t → R s t)
    (hhandoff : ∀ s t, stageHandoff s = .ok t → R s t) {c : Command} {s t : State} (h : stageOf c s = .ok t) :
    R s t := by
  have hcapture : ∀ k s t, stageCapture k s = .ok t → R s t := fun k s t h => by
    obtain ⟨u, h1, h2⟩ := thenStage_ok.mp h
    exact trans _ _ _ (hsample k s u h1) (hconvert u t h2)
  have hseedgen : ∀ k s t, stageSeedgen k s = .ok t → R s t := fun k s t h => by
    obtain ⟨u, h1, h2⟩ := thenStage_ok.mp h
    exact trans _ _ _ (hcapture k s u h1) (hpermute u t h2)
  have hcreate : ∀ k s t, stageCreate k s = .ok t → R s t := fun k s t h => by
    obtain ⟨u, h1, h2⟩ := thenStage_ok.mp h
    exact trans _ _ _ (hseedgen k s u h1) (hhandoff u t h2)
  cases c with
  | nop => injection h with h; exact h ▸ refl s
  | sample k => exact hsample k s t h
  | convert => exact hconvert s t h
  | permute => exact hpermute s t h
  | unpermute => exact hunpermute s t h
  | capture k => exact hcapture k s t h
  | seedgen k => exact hseedgen k s t h
  | handoff => exact hhandoff s t h
  | create k => exact hcreate k s t h

/-- An illegal command byte is ignored while halted, and else takes ILLEGAL_COMMAND. -/
theorem illegalCommand_cases (d : Byte) (s : State) :
    (s.halted = true ∧ illegalCommand d s = s) ∨
    (s.halted = false ∧ illegalCommand d s = takeFault .illegalCommand d s) := by
  unfold illegalCommand
  cases h : s.halted
  · exact .inr ⟨rfl, runCommand_error h rfl⟩
  · exact .inl ⟨rfl, runCommand_halted h _ _⟩

/-- Each command's instruction runs its stages. -/
theorem exec_command (c : Command) (s : State) :
    exec (commandInstr c) s = .next (runCommand (commandByte c) (stageOf c) s) := by
  cases c <;> rfl

/-- A running SFE whose stages succeed leaves what they leave. -/
theorem exec_command_ok {c : Command} {s t : State} (h : s.halted = false) (hf : stageOf c s = .ok t) :
    exec (commandInstr c) s = .next t := by
  rw [exec_command, runCommand_ok h hf]

/-- A running SFE in which a stage raises a fault takes it. -/
theorem exec_command_error {c : Command} {s : State} {e : Cause} (h : s.halted = false)
    (hf : stageOf c s = .error e) : exec (commandInstr c) s = .next (takeFault e (commandByte c) s) := by
  rw [exec_command, runCommand_error h hf]

theorem exec_rd8 (off : Byte) (s : State) : exec (.rd8 off) s = .next (hostRead off s) := rfl

/-- A write to an offset other than CMD. -/
theorem exec_wr8 {off : Byte} (h : off ≠ cmdOffset) (d : Byte) (s : State) :
    exec (.wr8 off d) s = .next (hostWrite off d s) := by
  simp [exec, execWr8, h]

/-- A write to CMD runs a command's stages, or takes ILLEGAL_COMMAND. -/
theorem dispatchCommand_eq (d : Byte) (s : State) :
    dispatchCommand d s =
      .next (match decodeCommand d with
        | none => illegalCommand d s
        | some c => runCommand (commandByte c) (stageOf c) s) := by
  unfold dispatchCommand
  cases decodeCommand d with
  | none => rfl
  | some c => cases c <;> rfl

/-- An instruction is a read, a write of an offset other than CMD, a command, or (for the one ill-formed term) a dispatch. -/
theorem instr_cases (i : Instr) :
    (∃ off, i = .rd8 off) ∨ (∃ off d, i = .wr8 off d ∧ off ≠ cmdOffset) ∨ (∃ d, i = .wr8 cmdOffset d) ∨
      ∃ c, i = commandInstr c := by
  cases i with
  | rd8 off => exact .inl ⟨off, rfl⟩
  | wr8 off d =>
    by_cases h : off = cmdOffset
    · exact .inr (.inr (.inl ⟨d, by rw [h]⟩))
    · exact .inr (.inl ⟨off, d, rfl, h⟩)
  | nop => exact .inr (.inr (.inr ⟨.nop, rfl⟩))
  | sample k => exact .inr (.inr (.inr ⟨.sample k, rfl⟩))
  | convert => exact .inr (.inr (.inr ⟨.convert, rfl⟩))
  | permute => exact .inr (.inr (.inr ⟨.permute, rfl⟩))
  | unpermute => exact .inr (.inr (.inr ⟨.unpermute, rfl⟩))
  | capture k => exact .inr (.inr (.inr ⟨.capture k, rfl⟩))
  | seedgen k => exact .inr (.inr (.inr ⟨.seedgen k, rfl⟩))
  | handoff => exact .inr (.inr (.inr ⟨.handoff, rfl⟩))
  | create k => exact .inr (.inr (.inr ⟨.create k, rfl⟩))

/-- Everything an instruction can leave: a host read, a host write, a command's run with the byte that encodes it, or the
fault of an illegal command byte. -/
theorem exec_cases (i : Instr) (s : State) :
    (∃ off, i = .rd8 off ∧ exec i s = .next (hostRead off s)) ∨
    (∃ off d, i = .wr8 off d ∧ off ≠ cmdOffset ∧ exec i s = .next (hostWrite off d s)) ∨
    (∃ c, (i = commandInstr c ∨ ∃ d, i = .wr8 cmdOffset d ∧ decodeCommand d = some c) ∧
      exec i s = .next (runCommand (commandByte c) (stageOf c) s)) ∨
    (∃ d, i = .wr8 cmdOffset d ∧ decodeCommand d = none ∧ exec i s = .next (illegalCommand d s)) := by
  rcases instr_cases i with ⟨off, rfl⟩ | ⟨off, d, rfl, h⟩ | ⟨d, rfl⟩ | ⟨c, rfl⟩
  · exact .inl ⟨off, rfl, rfl⟩
  · exact .inr (.inl ⟨off, d, rfl, h, exec_wr8 h d s⟩)
  · have he : exec (.wr8 cmdOffset d) s = dispatchCommand d s := by simp [exec, execWr8]
    rw [he, dispatchCommand_eq]
    cases hd : decodeCommand d with
    | none => exact .inr (.inr (.inr ⟨d, rfl, hd, rfl⟩))
    | some c => exact .inr (.inr (.inl ⟨c, .inr ⟨d, rfl, hd⟩, rfl⟩))
  · exact .inr (.inr (.inl ⟨c, .inl rfl, exec_command c s⟩))

/-- Every instruction answers a next state. -/
theorem exec_answers (i : Instr) (s : State) : ∃ t, exec i s = .next t := by
  rcases exec_cases i s with ⟨_, _, h⟩ | ⟨_, _, _, _, h⟩ | ⟨_, _, h⟩ | ⟨_, _, _, h⟩ <;> exact ⟨_, h⟩

/-- Everything a step can do: idle, a reset, an instruction, or an illegal command byte. -/
theorem step_cases (s : State) :
    (s.pending = [] ∧ step s = .next (idle s)) ∨
    (∃ t rest, s.pending = t :: rest ∧ t.act = .reset ∧ step s = .next (takeReset (beginTurn t rest s))) ∨
    (∃ t rest w i u, s.pending = t :: rest ∧ t.act = .transact w ∧ decode w = .instr i ∧
      exec i (beginTurn t rest s) = .next u ∧ step s = .next (engineLatch u)) ∨
    (∃ t rest w d, s.pending = t :: rest ∧ t.act = .transact w ∧ decode w = .illegalCommand d ∧
      step s = .next (engineLatch (illegalCommand d (beginTurn t rest s)))) := by
  unfold step nextTurn
  cases hp : s.pending with
  | nil => exact .inl ⟨rfl, rfl⟩
  | cons t rest =>
    cases ha : t.act with
    | reset => exact .inr (.inl ⟨t, rest, rfl, ha, by simp [ha]⟩)
    | transact w =>
      cases hd : decode w with
      | instr i =>
        obtain ⟨u, hu⟩ := exec_answers i (beginTurn t rest s)
        exact .inr (.inr (.inl ⟨t, rest, w, i, u, rfl, ha, hd, hu, by simp [ha, hd, hu, onNext]⟩))
      | illegalCommand d =>
        exact .inr (.inr (.inr ⟨t, rest, w, d, rfl, ha, hd, by simp [ha, hd, onNext]⟩))

end Sys2Proof.Machine
end

