-- ==== Sys2Proof/Laws/Registers.lean ====
section
/-! SUPPORT. The register map by offset, and what the updates leave of the bytes that reads give. -/

namespace Sys2Proof.Machine

theorem regOf_raw (i : Fin 16) : regOf (BitVec.ofNat 8 i.val) = .raw i := by revert i; decide

theorem regOf_seed (j : Fin 16) : regOf (BitVec.ofNat 8 (0x10 + j.val)) = .seed j := by revert j; decide

theorem regOf_smp (k : Fin 16) : regOf (BitVec.ofNat 8 (0x20 + k.val)) = .smp k := by revert k; decide

/-- The offset of a RAW element is its index. -/
theorem regOf_eq_raw {off : Byte} {i : Fin 16} : regOf off = .raw i ↔ off = BitVec.ofNat 8 i.val := by
  revert off i; decide

/-- Offsets below 0x10, and only those, name RAW elements. -/
theorem regOf_isRaw (off : Byte) : (∃ i, regOf off = .raw i) ↔ off.toNat < 0x10 := by
  revert off; decide

theorem regOf_isSeed (off : Byte) : (∃ j, regOf off = .seed j) ↔ 0x10 ≤ off.toNat ∧ off.toNat < 0x20 := by
  revert off; decide

theorem regOf_isSmp (off : Byte) : (∃ k, regOf off = .smp k) ↔ 0x20 ≤ off.toNat ∧ off.toNat < 0x30 := by
  revert off; decide

theorem regOf_status (off : Byte) : regOf off = .status ↔ off = 0x30#8 := by revert off; decide

theorem regOf_cause (off : Byte) : regOf off = .cause ↔ off = 0x32#8 := by revert off; decide

theorem regOf_finfo (off : Byte) : regOf off = .finfo ↔ off = 0x33#8 := by revert off; decide

/-- The offsets whose read is illegal: CMD and the reserved ones. -/
theorem regByte_none (s : State) (off : Byte) :
    s.regByte off = none ↔ off = 0x31#8 ∨ 0x34 ≤ off.toNat := by
  have h : (regOf off = .cmd ∨ regOf off = .reserved) ↔ off = 0x31#8 ∨ 0x34 ≤ off.toNat := by
    revert off; decide
  rw [← h]
  unfold State.regByte
  cases regOf off <;> simp [State.regRead]

/-- A byte reads as before where the register named reads as before. -/
theorem regByte_congr {s u : State} {a : Byte} (h : u.regRead (regOf a) = s.regRead (regOf a)) :
    u.regByte a = s.regByte a := h

/-- Every byte but those of the rows that changed, STATUS, CAUSE and FINFO reads as before. -/
theorem regByte_of_rows {s u : State} (a : Byte)
    (hraw : a.toNat < 0x10 → u.raw = s.raw)
    (hseed : 0x10 ≤ a.toNat → a.toNat < 0x20 → u.seed = s.seed)
    (hsmp : 0x20 ≤ a.toNat → a.toNat < 0x30 → u.smp = s.smp)
    (hst : a = 0x30#8 → u.status = s.status) (hc : a = 0x32#8 → u.cause = s.cause)
    (hf : a = 0x33#8 → u.finfo = s.finfo) : u.regByte a = s.regByte a := by
  unfold State.regByte
  cases h : regOf a with
  | raw i => simp [State.regRead, hraw ((regOf_isRaw a).mp ⟨i, h⟩)]
  | seed j =>
    have hj := (regOf_isSeed a).mp ⟨j, h⟩
    simp [State.regRead, hseed hj.1 hj.2]
  | smp k =>
    have hk := (regOf_isSmp a).mp ⟨k, h⟩
    simp [State.regRead, hsmp hk.1 hk.2]
  | status => simp [State.regRead, hst ((regOf_status a).mp h)]
  | cmd => rfl
  | cause => simp [State.regRead, hc ((regOf_cause a).mp h)]
  | finfo => simp [State.regRead, hf ((regOf_finfo a).mp h)]
  | reserved => rfl

end Sys2Proof.Machine
end

