-- ==== Sys2Proof/Laws/Decode.lean ====
section
/-! SUPPORT. The fields of a format-T word, and the decoder on words given by their fields. -/

namespace Sys2Proof

theorem formatT_data (w : BitVec 1) (off d : Byte) : (formatT w off d).extractLsb' 0 8 = d := by
  refine BitVec.eq_of_getLsbD_eq fun i hi => ?_
  rw [BitVec.getLsbD_extractLsb']
  simp only [formatT, BitVec.getLsbD_append]
  simp [hi]

theorem formatT_off (w : BitVec 1) (off d : Byte) : (formatT w off d).extractLsb' 8 8 = off := by
  refine BitVec.eq_of_getLsbD_eq fun i hi => ?_
  rw [BitVec.getLsbD_extractLsb']
  simp only [formatT, BitVec.getLsbD_append]
  simp [hi]

theorem formatT_w (w : BitVec 1) (off d : Byte) : (formatT w off d).getLsbD 16 = w.getLsbD 0 := by
  simp only [formatT, BitVec.getLsbD_append]
  simp

/-- A word is put together from its fields. -/
theorem formatT_fields (w : TWord) :
    formatT (BitVec.ofBool (w.getLsbD 16)) (w.extractLsb' 8 8) (w.extractLsb' 0 8) = w := by
  refine BitVec.eq_of_getLsbD_eq fun i hi => ?_
  simp only [formatT, BitVec.getLsbD_append, BitVec.getLsbD_extractLsb', BitVec.getLsbD_ofBool]
  interval_cases i <;> simp

/-- A word with W = 0 is a read of its offset. -/
theorem decode_read (off d : Byte) : decode (formatT 0#1 off d) = .instr (.rd8 off) := by
  have hw : (formatT 0#1 off d).getLsbD 16 = false := formatT_w _ _ _
  simp only [decode, hw, formatT_off]
  rfl

/-- A word with W = 1 and an offset other than CMD is a write. -/
theorem decode_write {off : Byte} (h : off ≠ cmdOffset) (d : Byte) :
    decode (formatT 1#1 off d) = .instr (.wr8 off d) := by
  have hw : (formatT 1#1 off d).getLsbD 16 = true := formatT_w _ _ _
  simp only [decode, hw, formatT_off, formatT_data, if_neg h]
  rfl

/-- A word that writes CMD is the command its byte encodes. -/
theorem decode_command (d : Byte) :
    decode (commandWord d) =
      match decodeCommand d with
      | some c => .instr (commandInstr c)
      | none => .illegalCommand d := by
  have hw : (commandWord d).getLsbD 16 = true := formatT_w _ _ _
  have hoff : (commandWord d).extractLsb' 8 8 = cmdOffset := formatT_off _ _ _
  have hd : (commandWord d).extractLsb' 0 8 = d := formatT_data _ _ _
  cases h : decodeCommand d <;> simp only [decode, hw, hoff, hd, h, if_true]

/-- A command's byte decodes to the command. -/
theorem decodeCommand_commandByte (c : Command) : decodeCommand (commandByte c) = some c := by
  cases c with
  | sample k | capture k | seedgen k | create k => cases k <;> decide
  | nop | convert | permute | unpermute | handoff => decide

/-- A byte that decodes to a command is that command's byte. -/
theorem commandByte_of_decodeCommand {d : Byte} {c : Command} (h : decodeCommand d = some c) : commandByte c = d := by
  have key : ∀ d : Byte, (decodeCommand d).all fun c => commandByte c = d := by decide
  simpa [h] using key d

/-- The word of a command's instruction is the write of its byte to CMD. -/
theorem encode_command (c : Command) : encode (commandInstr c) = commandWord (commandByte c) := by cases c <;> rfl

end Sys2Proof
end

