-- ==== Sys2Proof/Laws/Invariant.lean ====
section
/-! SUPPORT. What no instruction touches, and the one induction that shows an invariant of every step. -/

namespace Sys2Proof.Machine

/-- The parameters, the ports, the turns to come, the engine's record and the tick are none of an instruction's business. -/
abbrev SameSurroundings (s u : State) : Prop :=
  u.params = s.params ∧ u.ports = s.ports ∧ u.pending = s.pending ∧ u.engineRx = s.engineRx ∧ u.tick = s.tick

theorem exec_surroundings {i : Instr} {s u : State} (h : exec i s = .next u) : SameSurroundings s u := by
  have trans : ∀ a b c, SameSurroundings a b → SameSurroundings b c → SameSurroundings a c :=
    fun a b c h1 h2 => ⟨h2.1.trans h1.1, h2.2.1.trans h1.2.1, h2.2.2.1.trans h1.2.2.1,
      h2.2.2.2.1.trans h1.2.2.2.1, h2.2.2.2.2.trans h1.2.2.2.2⟩
  rcases exec_cases i s with ⟨off, rfl, he⟩ | ⟨off, d, rfl, _, he⟩ | ⟨c, _, he⟩ | ⟨d, rfl, _, he⟩ <;>
    rw [he] at h <;> injection h with h <;> subst h
  · rcases hostRead_cases off s with ⟨_, _, h⟩ | ⟨_, _, h⟩ | ⟨_, _, h⟩ <;> rw [h] <;> simp [SameSurroundings]
  · rcases hostWrite_cases off d s with ⟨_, h⟩ | ⟨_, _, _, h⟩ | ⟨_, _, h⟩ <;> rw [h] <;> simp [SameSurroundings]
  · rcases runCommand_cases (commandByte c) (stageOf c) s with ⟨_, h⟩ | ⟨_, t, ht, h⟩ | ⟨_, _, _, h⟩ <;> rw [h]
    · simp [SameSurroundings]
    · refine stageOf_keeps (fun s => by simp [SameSurroundings]) trans ?_ ?_ ?_ ?_ ?_ ht
      · intro k s t h
        rcases stageSample_ok.mp h with ⟨_, _, rfl⟩ | ⟨_, rfl⟩ <;> simp [SameSurroundings]
      · intro s t h; obtain ⟨_, rfl⟩ := stageConvert_ok.mp h; simp [SameSurroundings]
      · intro s t h; obtain ⟨_, rfl⟩ := stagePermute_ok.mp h; simp [SameSurroundings]
      · intro s t h; obtain ⟨_, rfl⟩ := stageUnpermute_ok.mp h; simp [SameSurroundings]
      · intro s t h; obtain ⟨_, rfl⟩ := stageHandoff_ok.mp h; simp [SameSurroundings]
    · simp [SameSurroundings]
  · rcases illegalCommand_cases d s with ⟨_, h⟩ | ⟨_, h⟩ <;> rw [h] <;> simp [SameSurroundings]

/-- A fault in a command's stages has a cause that records the command's byte. -/
theorem stageOf_error_record {c : Command} {s : State} {e : Cause} (h : stageOf c s = .error e) :
    FaultRecord (causeCode e) (commandByte c) := by
  cases c with
  | nop => cases h
  | sample k => obtain ⟨rfl, _, rfl⟩ := stageSample_error.mp h; decide
  | convert => obtain ⟨_, rfl⟩ := stageConvert_error.mp h; decide
  | permute => obtain ⟨_, rfl⟩ := stagePermute_error.mp h; decide
  | unpermute => obtain ⟨_, rfl⟩ := stageUnpermute_error.mp h; decide
  | capture k => obtain ⟨rfl, _, rfl⟩ := stageCapture_error.mp h; decide
  | seedgen k => obtain ⟨rfl, _, rfl⟩ := stageSeedgen_error.mp h; decide
  | handoff => obtain ⟨_, rfl⟩ := stageHandoff_error.mp h; decide
  | create k => obtain ⟨rfl, _, rfl⟩ := stageCreate_error.mp h; decide

/-- An illegal read has a cause that records its offset. -/
theorem illegalRead_record {s : State} {off : Byte} (h : s.regByte off = none) :
    FaultRecord (causeCode .illegalRead) off :=
  .inr (.inr (.inl ⟨rfl, (regByte_none s off).mp h⟩))

/-- An illegal write has a cause that records its offset. -/
theorem illegalWrite_record {off : Byte} (hoff : off ≠ cmdOffset) (h : ∀ i, regOf off ≠ .raw i) :
    FaultRecord (causeCode .illegalWrite) off := by
  refine .inr (.inr (.inr (.inl ⟨rfl, ?_⟩)))
  have h1 : ¬ off.toNat < 0x10 := fun hlt => by
    obtain ⟨i, hi⟩ := (regOf_isRaw off).mpr hlt
    exact h i hi
  have h2 : off.toNat ≠ 0x31 := fun he => hoff (BitVec.eq_of_toNat_eq he)
  omega

/-- A word rejected by name carries a byte that encodes no command. -/
theorem decode_illegalCommand {w : TWord} {d : Byte} (h : decode w = .illegalCommand d) : decodeCommand d = none := by
  unfold decode at h
  simp only at h
  split at h
  · split at h
    · split at h
      · cases h
      · rename_i hc
        injection h with h
        exact h ▸ hc
    · cases h
  · cases h

/-- The induction over what a step can do: a property that the single updates keep, and that the reset gives, is kept by every
step. The fault entry may assume what 60_exceptions.md R151 says of its cause and information byte. -/
theorem step_keeps {P : State → Prop}
    (hidle : ∀ s, P s → P (idle s))
    (hbegin : ∀ t rest s, P s → P (beginTurn t rest s))
    (hreset : ∀ t rest s, P s → P (takeReset (beginTurn t rest s)))
    (hlatch : ∀ i s u, P s → exec i s = .next u → s.engSeedStb = false → P u → P (engineLatch u))
    (hreturn : ∀ b s, P s → P (returnByte b s))
    (hfault : ∀ c d s, s.halted = false → FaultRecord (causeCode c) d → P s → P (takeFault c d s))
    (hwrite : ∀ s (i : Fin 16) d, P s → P { s.withFlag .rawV true with raw := s.raw.set i d })
    (hstage : ∀ c s t, P s → stageOf c s = .ok t → P t) {s u : State} (hs : P s) (h : step s = .next u) : P u := by
  have hill : ∀ d s, decodeCommand d = none → P s → P (illegalCommand d s) := fun d s hd hp => by
    rcases illegalCommand_cases d s with ⟨_, h⟩ | ⟨h', h⟩ <;> rw [h]
    · exact hp
    · exact hfault _ _ _ h' (.inr (.inl ⟨rfl, hd⟩)) hp
  have hexec : ∀ i s u, P s → exec i s = .next u → P u := fun i s u hp h => by
    rcases exec_cases i s with ⟨off, rfl, he⟩ | ⟨off, d, rfl, hoff, he⟩ | ⟨c, _, he⟩ | ⟨d, rfl, hd, he⟩ <;>
      rw [he] at h <;> injection h with h <;> subst h
    · rcases hostRead_cases off s with ⟨_, _, h⟩ | ⟨_, _, h⟩ | ⟨hn, h', h⟩ <;> rw [h]
      · exact hreturn _ _ hp
      · exact hreturn _ _ hp
      · exact hreturn _ _ (hfault _ _ _ h' (illegalRead_record hn) hp)
    · rcases hostWrite_cases off d s with ⟨_, h⟩ | ⟨_, _, _, h⟩ | ⟨h', hn, h⟩ <;> rw [h]
      · exact hp
      · exact hwrite _ _ _ hp
      · exact hfault _ _ _ h' (illegalWrite_record hoff hn) hp
    · rcases runCommand_cases (commandByte c) (stageOf c) s with ⟨_, h⟩ | ⟨_, t, ht, h⟩ | ⟨h', e, he', h⟩ <;> rw [h]
      · exact hp
      · exact hstage _ _ _ hp ht
      · exact hfault _ _ _ h' (stageOf_error_record he') hp
    · exact hill _ _ hd hp
  rcases step_cases s with ⟨_, hs'⟩ | ⟨t, r, _, _, hs'⟩ | ⟨t, r, _, i, v, _, _, _, he, hs'⟩ | ⟨t, r, _, d, _, _, hd, hs'⟩ <;>
    rw [hs'] at h <;> injection h with h <;> subst h
  · exact hidle _ hs
  · exact hreset _ _ _ hs
  · have hb := hbegin t r s hs
    exact hlatch i _ v hb he rfl (hexec _ _ _ hb he)
  · have hb := hbegin t r s hs
    have hp := hill d _ (decode_illegalCommand hd) hb
    have hstb : (illegalCommand d (beginTurn t r s)).engSeedStb = false := by
      rcases illegalCommand_cases d (beginTurn t r s) with ⟨_, h⟩ | ⟨_, h⟩ <;> rw [h] <;> rfl
    have hno : engineLatch (illegalCommand d (beginTurn t r s)) = illegalCommand d (beginTurn t r s) := by
      simp [engineLatch, hstb]
    exact hno.symm ▸ hp

end Sys2Proof.Machine
end

