-- ==== Sys2Proof/Laws/PerInstr.lean ====
section
/-! SUPPORT. Per instruction: the word an instruction encodes to matches its row of spec/opcode_table.json. -/

namespace Sys2Proof.Laws.TableRow

/-- The word, under the row's mask, is the row's match (30_encoding.md R73). -/
def Statement (i : Instr) : Prop := encode i &&& (tableRow i).1 = (tableRow i).2

theorem rd8 (off : Byte) : Statement (.rd8 off) := by revert off; unfold Statement; decide

theorem wr8 (off data : Byte) : Statement (.wr8 off data) := by
  refine BitVec.eq_of_getLsbD_eq fun i hi => ?_
  simp only [encode, tableRow, formatT, BitVec.getLsbD_and, BitVec.getLsbD_append]
  interval_cases i <;> simp

theorem nop : Statement .nop := by unfold Statement; decide

theorem sample (k : Kind) : Statement (.sample k) := by unfold Statement; cases k <;> decide

theorem convert : Statement .convert := by unfold Statement; decide

theorem permute : Statement .permute := by unfold Statement; decide

theorem unpermute : Statement .unpermute := by unfold Statement; decide

theorem capture (k : Kind) : Statement (.capture k) := by unfold Statement; cases k <;> decide

theorem seedgen (k : Kind) : Statement (.seedgen k) := by unfold Statement; cases k <;> decide

theorem handoff : Statement .handoff := by unfold Statement; decide

theorem create (k : Kind) : Statement (.create k) := by unfold Statement; cases k <;> decide

end Sys2Proof.Laws.TableRow
end

