-- ==== Sys2Proof/Tests/Slice0.lean ====
section
/-! SUPPORT. The model's own tests: expected values are the vectors of spec/95_test_vectors.md and the examples of the rules;
then, for each statement with hypotheses, a concrete case that meets them. -/

namespace Sys2Proof.Tests

open Sys2Proof Sys2Proof.Machine

/-! ### Well-formedness -/

theorem test_wellFormed_refuses_write_of_cmd : ¬ (Instr.wr8 0x31#8 0x00#8).WellFormed := by decide

theorem test_wellFormed_takes_neighbours :
    (Instr.wr8 0x30#8 0x00#8).WellFormed ∧ (Instr.wr8 0x32#8 0x00#8).WellFormed := by decide

/-! ### Decoding: words written out from 30_encoding.md R71 and R73 -/

theorem test_decode_rd8 : decode 0b00010111100000000#17 = .instr (.rd8 0x2F#8) := by decide

/-- DATA is ignored on a read. -/
theorem test_decode_rd8_ignores_data : decode 0b00010111111111111#17 = .instr (.rd8 0x2F#8) := by decide

theorem test_decode_wr8 : decode 0b10000010110100111#17 = .instr (.wr8 0x05#8 0xA7#8) := by decide

theorem test_decode_nop : decode 0b10011000100000000#17 = .instr .nop := by decide

theorem test_decode_sample :
    decode 0b10011000100000001#17 = .instr (.sample .time) ∧ decode 0b10011000100010001#17 = .instr (.sample .address) := by
  decide

theorem test_decode_convert : decode 0b10011000100000010#17 = .instr .convert := by decide

theorem test_decode_permute : decode 0b10011000100000011#17 = .instr .permute := by decide

theorem test_decode_unpermute : decode 0b10011000100000100#17 = .instr .unpermute := by decide

theorem test_decode_capture :
    decode 0b10011000100000101#17 = .instr (.capture .time) ∧ decode 0b10011000100010101#17 = .instr (.capture .address) := by
  decide

theorem test_decode_seedgen :
    decode 0b10011000100000110#17 = .instr (.seedgen .time) ∧ decode 0b10011000100010110#17 = .instr (.seedgen .address) := by
  decide

theorem test_decode_handoff : decode 0b10011000100000111#17 = .instr .handoff := by decide

theorem test_decode_create :
    decode 0b10011000100001000#17 = .instr (.create .time) ∧ decode 0b10011000100011000#17 = .instr (.create .address) := by
  decide

/-- V-F5 to V-F8: an illegal OP, K = 1 on NOP, RSV not 000. -/
theorem test_decode_illegal :
    decode 0x13109#17 = .illegalCommand 0x09#8 ∧ decode 0x13110#17 = .illegalCommand 0x10#8 ∧
    decode 0x13128#17 = .illegalCommand 0x28#8 ∧ decode 0x131E8#17 = .illegalCommand 0xE8#8 := by decide

/-- Exactly the thirteen command bytes of 30_encoding.md R73 are legal. -/
theorem test_thirteen_legal_bytes : ∀ d : Byte, (decodeCommand d).isSome = true ↔
    d ∈ [0x00#8, 0x01#8, 0x11#8, 0x02#8, 0x03#8, 0x04#8, 0x05#8, 0x15#8, 0x06#8, 0x16#8, 0x07#8, 0x08#8, 0x18#8] := by
  decide

theorem test_decodeTableWord :
    decodeTableWord 24 0x13118 = some (.create .address) ∧ decodeTableWord 17 0x105A7 = some (.wr8 0x05#8 0xA7#8) ∧
    decodeTableWord 24 0x13109 = none ∧ decodeTableWord 24 0x20000 = none := by decide

/-! ### Assembling: 30_encoding.md R79, R80 and the words of 95_test_vectors.md -/

theorem test_assembleLine :
    assembleLine "wr8 0x05, 0xA7 ; V-B2".toList = some [0x105A7#17] ∧ assembleLine "rd8 47".toList = some [0x02F00#17] ∧
    assembleLine "create a".toList = some [0x13118#17] ∧ assembleLine "; nothing".toList = some [] := by decide

theorem test_assembleLine_refuses :
    assembleLine "create".toList = none ∧ assembleLine "nop t".toList = none ∧ assembleLine "rd8 256".toList = none ∧
    assembleLine "wr8 0x05 0xA7".toList = none := by decide

/-- The model's choice of letter case (notes/assumptions/17.md). -/
theorem test_assembleLine_letter_case :
    assembleLine "wr8 0x05, 0xa7".toList = assembleLine "wr8 0x05, 0xA7".toList ∧ assembleLine "NOP".toList = none ∧
    assembleLine "sample T".toList = none ∧ assembleLine "rd8 0X2F".toList = none := by decide

/-- P1. -/
theorem test_assemble_P1 :
    assemble ["created".toList, "rd8 0x30".toList, "rd8 0x10".toList] = some [0x13108#17, 0x03000#17, 0x01000#17] := by
  decide

/-! ### The datapath -/

/-- V-C3 and V-C8. -/
theorem test_beBytes :
    beBytes 0x000102030405060708090A0B0C0D0E0F#128 = lanes (fun i => BitVec.ofNat 8 i.val) ∧
    beBytes 0x18E6D48C303BCD15#128 =
      #v[0x00#8, 0x00#8, 0x00#8, 0x00#8, 0x00#8, 0x00#8, 0x00#8, 0x00#8,
         0x18#8, 0xE6#8, 0xD4#8, 0x8C#8, 0x30#8, 0x3B#8, 0xCD#8, 0x15#8] := by decide

/-- V-S2, and the table of PERM_INV (41_entropy_capture.md R103). -/
theorem test_shuffle_default :
    shuffle permDefault (lanes fun i => BitVec.ofNat 8 i.val) =
      #v[0x0F#8, 0x00#8, 0x0E#8, 0x01#8, 0x0D#8, 0x02#8, 0x0C#8, 0x03#8,
         0x0B#8, 0x04#8, 0x0A#8, 0x05#8, 0x09#8, 0x06#8, 0x08#8, 0x07#8] ∧
    (lanes (permInv permDefault)).toList = [1, 3, 5, 7, 9, 11, 13, 15, 14, 12, 10, 8, 6, 4, 2, 0] := by decide

/-- V-A2: ADDR_W = 32 keeps the low 32 bits. -/
theorem test_zextAddr : zextAddr 32 0xFFFFFFFFDEADBEEF#128 = 0xDEADBEEF#128 := by decide

/-! ### One step of each instruction -/

/-- The state an outcome answers. -/
def after : Result → State
  | .next s => s
  | .fault _ => State.reset
  | .refused _ => State.reset

/-- The state after reset with a clock and an address on the ports, as the vectors have them. -/
def ported : State :=
  { State.reset with ports := { clkOk := true, clkNs := 0x18E6D48C303BCD15#128, addrSrc := 0x7FFD12345678#128 } }

/-- The state after reset with a clock that reports nothing. -/
def noClock : State := { ported with ports := { ported.ports with clkOk := false } }

/-- The seed of V-S3. -/
def seedS3 : Bytes16 :=
  #v[0x15#8, 0x00#8, 0xCD#8, 0x00#8, 0x3B#8, 0x00#8, 0x30#8, 0x00#8,
     0x8C#8, 0x00#8, 0xD4#8, 0x00#8, 0xE6#8, 0x00#8, 0x18#8, 0x00#8]

/-- A state with a sample, RAW and SEED valid: V-G1. -/
def seeded : State := after (exec (.seedgen .time) ported)

/-- A halted state: V-F5. -/
def halted : State := { State.reset with status := 0x80#8, cause := 0x02#8, finfo := 0x09#8 }

/-- V-B3: the low byte of the sample is at 0x2F. -/
theorem test_rd8 : (after (exec (.rd8 0x2F#8) seeded)).reads = [0x15#8] := by decide

/-- V-F11. -/
theorem test_rd8_cmd :
    let s := after (exec (.rd8 0x31#8) State.reset)
    (s.reads, s.status, s.cause, s.finfo) = ([0x00#8], 0x80#8, 0x03#8, 0x31#8) := by decide

/-- V-B2. -/
theorem test_wr8 :
    let s := after (exec (.wr8 0x05#8 0xA7#8) State.reset)
    s.raw[5] = 0xA7#8 ∧ s.raw[4] = 0x00#8 ∧ s.status = 0x02#8 := by decide

/-- V-F12. -/
theorem test_wr8_seed :
    let s := after (exec (.wr8 0x10#8 0x55#8) State.reset)
    (s.status, s.cause, s.finfo) = (0x80#8, 0x04#8, 0x10#8) ∧ s.seed[0] = 0x00#8 := by decide

/-- V-B1. -/
theorem test_nop : after (exec .nop State.reset) = State.reset := by decide

/-- V-A1. -/
theorem test_sample_address :
    let s := after (exec (.sample .address) ported)
    s.smp = 0x7FFD12345678#128 ∧ s.status = 0x31#8 := by decide

/-- V-F1. -/
theorem test_sample_noClock :
    let s := after (exec (.sample .time) noClock)
    (s.status, s.cause, s.finfo) = (0x80#8, 0x01#8, 0x01#8) := by decide

/-- V-C9 on a state with a valid sample. -/
theorem test_convert :
    let s := after (exec .convert { State.reset with smp := 0x0102030405060708090A0B0C0D0E0F10#128, status := 0x01#8 })
    s.raw = lanes (fun i => BitVec.ofNat 8 (i.val + 1)) ∧ s.status = 0x03#8 := by decide

/-- V-F15. -/
theorem test_convert_noData :
    let s := after (exec .convert State.reset)
    (s.status, s.cause, s.finfo) = (0x80#8, 0x05#8, 0x02#8) := by decide

/-- V-S4. -/
theorem test_permute :
    let s := after (exec .permute { State.reset with raw := zeros16.set 15 0x01#8, status := 0x02#8 })
    s.seed = zeros16.set 0 0x01#8 ∧ s.status = 0x06#8 := by decide

/-- V-F16. -/
theorem test_permute_noData :
    let s := after (exec .permute State.reset)
    (s.status, s.cause, s.finfo) = (0x80#8, 0x05#8, 0x03#8) := by decide

/-- V-S6 backwards: SEED[15] comes from RAW[7]. -/
theorem test_unpermute :
    let s := after (exec .unpermute { State.reset with seed := zeros16.set 15 0x01#8, status := 0x04#8 })
    s.raw = zeros16.set 7 0x01#8 ∧ s.status = 0x06#8 := by decide

/-- V-F17. -/
theorem test_unpermute_noData :
    let s := after (exec .unpermute State.reset)
    (s.status, s.cause, s.finfo) = (0x80#8, 0x05#8, 0x04#8) := by decide

/-- V-A2: ADDR_W = 32. -/
theorem test_capture_address :
    let p : Params := { addrW := 32, addrW_legal := by decide, perm := permDefault }
    let s := after (exec (.capture .address)
      { State.reset with params := p, ports := { clkOk := false, clkNs := 0#128, addrSrc := 0xDEADBEEF#128 } })
    s.smp = 0xDEADBEEF#128 ∧ s.raw[12] = 0xDE#8 ∧ s.raw[11] = 0x00#8 ∧ s.status = 0x33#8 := by decide

/-- V-F2. -/
theorem test_capture_noClock :
    let s := after (exec (.capture .time) noClock)
    (s.status, s.cause, s.finfo) = (0x80#8, 0x01#8, 0x05#8) := by decide

/-- V-G1. -/
theorem test_seedgen_time : seeded.seed = seedS3 ∧ seeded.status = 0x07#8 := by decide

/-- V-G2. -/
theorem test_seedgen_address :
    let s := after (exec (.seedgen .address) ported)
    s.seed[0] = 0x78#8 ∧ s.seed[8] = 0xFD#8 ∧ s.seed[10] = 0x7F#8 ∧ s.status = 0x37#8 := by decide

/-- V-H3, its first HANDOFF. -/
theorem test_handoff :
    let s := after (exec .handoff seeded)
    s.out = [{ bytes := seedS3 }] ∧ s.engSeed = seedS3 ∧ s.engSeedStb = true ∧ s.seed = zeros16 ∧ s.status = 0x08#8 := by
  decide

/-- V-H3, its second HANDOFF. -/
theorem test_handoff_twice :
    let s := after (exec .handoff (after (exec .handoff seeded)))
    s.out.length = 1 ∧ (s.status, s.cause, s.finfo) = (0x88#8, 0x05#8, 0x07#8) := by decide

/-- V-H2. -/
theorem test_create_address :
    let s := after (exec (.create .address) ported)
    s.out.map (fun e => e.bytes[0]) = [0x78#8] ∧ s.smp = 0#128 ∧ s.raw = zeros16 ∧ s.status = 0x18#8 := by decide

/-- P3, statement 2: nothing of a CREATE that meets no clock is kept. -/
theorem test_create_noClock :
    let s := after (exec (.create .time) { seeded with ports := noClock.ports })
    (s.status, s.cause, s.finfo) = (0x87#8, 0x01#8, 0x08#8) ∧ s.out = [] ∧ s.seed = seedS3 := by decide

/-! ### One step of the machine -/

/-- The word of `create a` placed at reset is what the next step runs, with the port values of the turn. -/
theorem test_step_create :
    let s := after (step { State.reset with pending := [{ act := .transact 0x13118#17, ports := some ported.ports }] })
    s.status = 0x18#8 ∧ s.engineRx = s.out ∧ s.out.length = 1 ∧ s.pending = [] := by decide

/-- V-F8 by a step. -/
theorem test_step_illegal :
    let s := after (step (State.reset.withFetchWord 24 0x131E8))
    (s.status, s.cause, s.finfo) = (0x80#8, 0x02#8, 0xE8#8) := by decide

/-- P3: a reset leaves the reset values, with OUT empty. -/
theorem test_step_reset :
    let s := after (step { halted with out := [{ bytes := seedS3 }], pending := [{ act := .reset, ports := some noClock.ports }] })
    (s.status, s.cause, s.finfo) = (0x00#8, 0x00#8, 0x00#8) ∧ s.out = [] := by decide

/-- The port's pulse is over in the step after a HANDOFF, and the lanes keep nothing of the seed (10_state.md R40,
42_generator_factory.md R135). -/
theorem test_strobe_falls :
    let s := after (step (after (exec .handoff seeded)))
    s.engSeedStb = false ∧ s.engSeed = zeros16 := by decide

/-- A placed program's words come in order (30_encoding.md R80). -/
theorem test_loadWords :
    ((loadWords (expandPseudo .rdstat ++ expandPseudo .created) State.reset).pending.map Turn.act) =
      [.transact 0x03000#17, .transact 0x13108#17] := by decide

/-- What the host sees of a halted SFE (00_scope.md R11). -/
theorem test_observe : observe halted =
    { reads := [], events := [], fault := true, cause := 0x02#8, finfo := 0x09#8 } := by decide

/-! ### Cases that meet the statements' hypotheses -/

theorem witness_DecodeInvertsEncode : (Instr.wr8 0x30#8 0xFF#8).WellFormed ∧ (Instr.wr8 0x32#8 0x00#8).WellFormed ∧
    (Instr.create .address).WellFormed := by decide

theorem witness_DecodedWordReencodes :
    decode 0x031FF#17 = .instr (.rd8 0x31#8) ∧ decode 0x1FFFF#17 = .instr (.wr8 0xFF#8 0xFF#8) := by decide

/-- A state whose next turn is the word `w`. -/
def facing (s : State) (w : TWord) : State := { s with pending := [{ act := .transact w, ports := some ported.ports }] }

theorem witness_StatementsAssemble : 256 ≤ 256 ∧ 256 ≤ 300 := by decide

theorem witness_StepRunsDecodedInstruction :
    ∃ t rest w i, (facing State.reset 0x13108#17).pending = t :: rest ∧ t.act = .transact w ∧ decode w = .instr i :=
  ⟨_, _, 0x13108#17, .create .time, rfl, rfl, by decide⟩

theorem witness_StepTakesIllegalCommand :
    (∃ t rest w d, (facing State.reset 0x13109#17).pending = t :: rest ∧ t.act = .transact w ∧
      decode w = .illegalCommand d) ∧ Running (facing State.reset 0x13109#17) ∧ Halted (facing halted 0x13109#17) :=
  ⟨⟨_, _, 0x13109#17, 0x09#8, rfl, rfl, by decide⟩, by decide⟩

theorem witness_ResetStepGivesResetValues :
    ∃ t rest, ({ halted with pending := [{ act := .reset, ports := none }] } : State).pending = t :: rest ∧ t.act = .reset :=
  ⟨_, _, rfl, rfl⟩

theorem witness_IdleStepKeepsState : (after (exec .handoff seeded)).pending = [] := by decide

theorem witness_PlacedWordRunsNext : (Instr.wr8 0xFF#8 0x01#8).WellFormed := by decide

/-- The two clauses of the offset, at their boundaries, running and halted. -/
theorem witness_IllegalReadFaults :
    Running State.reset ∧ Halted halted ∧
    (∀ off ∈ [0x31#8, 0x34#8, 0xFF#8], off = 0x31#8 ∨ 0x34 ≤ off.toNat) ∧
    (∀ off ∈ [0x30#8, 0x32#8, 0x33#8], ¬ (off = 0x31#8 ∨ 0x34 ≤ off.toNat)) := by decide

theorem witness_WriteRawByte : Running State.reset ∧ Running seeded := by decide

theorem witness_IllegalWriteFaults :
    Running State.reset ∧ ∀ off ∈ [0x10#8, 0x30#8, 0x32#8, 0xFF#8], 0x10 ≤ off.toNat ∧ off ≠ 0x31#8 := by decide

theorem witness_WriteToCmdRunsCommand :
    Running State.reset ∧ decode (1#1 ++ 0x31#8 ++ 0x18#8) = .instr (.create .address) ∧
    decode (1#1 ++ 0x31#8 ++ 0x19#8) = .illegalCommand 0x19#8 := by decide

theorem witness_SampleLatchesClock : Running ported ∧ ported.ports.clkOk = true := by decide

theorem witness_SampleLatchesAddress : Running noClock := by decide

theorem witness_ClockUnavailableFaults : Running noClock ∧ noClock.ports.clkOk = false := by decide

theorem witness_ConvertFillsRaw : Running seeded ∧ seeded.flag .smpV = true := by decide

theorem witness_PermuteFillsSeed : Running seeded ∧ seeded.flag .rawV = true := by decide

theorem witness_UnpermuteRecoversRaw : Running seeded ∧ seeded.flag .seedV = true := by decide

theorem witness_CaptureResult : Running ported ∧ ported.ports.clkOk = true := by decide

theorem witness_SeedgenResult : Running ported ∧ ported.ports.clkOk = true := by decide

theorem witness_InvalidInputFaults :
    Running State.reset ∧ State.reset.flag .smpV = false ∧ State.reset.flag .rawV = false ∧
    State.reset.flag .seedV = false := by decide

theorem witness_UnpermuteUndoesPermute : Running seeded ∧ seeded.flag .rawV = true ∧ seeded.raw ≠ zeros16 := by decide

theorem witness_HandoffEmitsAndZeroizes : Running seeded ∧ seeded.flag .seedV = true := by decide

theorem witness_CreateResult : Running ported ∧ ported.ports.clkOk = true := by decide

theorem witness_CompositesAreTheirStages :
    Running ported ∧ (Kind.time = .time → ported.ports.clkOk = true) ∧
    Running noClock ∧ (Kind.address = .time → noClock.ports.clkOk = true) := by decide

theorem witness_SeedIsGoneAfterHandoff :
    Running seeded ∧ seeded.flag .seedV = true ∧ seeded.ports.clkOk = true := by decide

theorem witness_CreateForgetsOldData :
    Running seeded ∧ (Kind.time = .time → seeded.ports.clkOk = true) ∧ seeded.raw ≠ zeros16 := by decide

theorem witness_EqualSeedsStartEqualGenerators :
    let t : State := { seeded with smp := 5#128, status := 0x1C#8, out := [{ bytes := zeros16 }] }
    Running seeded ∧ Running t ∧ seeded.flag .seedV = true ∧ t.flag .seedV = true ∧ seeded.seed = t.seed := by decide

theorem witness_ZeroSeedIsDelivered :
    let s : State := { State.reset with status := 0x02#8 }
    Running s ∧ s.flag .rawV = true ∧ s.raw = zeros16 := by decide

theorem witness_HaltedIgnoresAllButReads : Halted halted ∧ ∀ off : Byte, Instr.create .address ≠ .rd8 off :=
  ⟨by decide, fun _ => nofun⟩

theorem witness_HaltedStepKeepsEverything :
    Halted (facing halted 0x13118#17) ∧
    ∃ t rest, (facing halted 0x13118#17).pending = t :: rest ∧ t.act = .transact 0x13118#17 :=
  ⟨by decide, _, _, rfl, rfl⟩

/-- Before a step that keeps the three flags set, and one with nothing pending. -/
theorem witness_OnlyResetClearsStickyFlags :
    let s : State := facing { halted with status := 0x98#8 } 0x03000#17
    NoResetNext s ∧ NoResetNext State.reset ∧ s.flag .fault = true ∧ s.flag .engSeeded = true ∧ s.flag .addrUsed = true ∧
    ∃ u, step s = .next u :=
  ⟨by decide, by decide, by decide, by decide, by decide, _, rfl⟩

theorem witness_FaultsArePrecise : ∃ u, exec (.create .time) noClock = .next u ∧ Running noClock ∧ Halted u :=
  ⟨_, rfl, by decide, by decide⟩

theorem witness_CompositesOnlyFaultOnClock : ∃ u, exec (.seedgen .time) noClock = .next u ∧ Running noClock ∧ Halted u :=
  ⟨_, rfl, by decide, by decide⟩

/-- A write, a command and a halted read that take no fault, with offsets, flags and bytes outside what they write. -/
theorem witness_FrameOfEveryInstruction :
    (∃ u, exec (.wr8 0x0F#8 0xA7#8) State.reset = .next u ∧ u.flag .fault = State.reset.flag .fault) ∧
    (∃ u, exec (.create .time) ported = .next u ∧ u.flag .fault = ported.flag .fault) ∧
    (∃ u, exec (.rd8 0x31#8) halted = .next u ∧ u.flag .fault = halted.flag .fault) ∧
    (Instr.wr8 0x0F#8 0xA7#8).WellFormed ∧
    writesByte (.wr8 0x0F#8 0xA7#8) 0x0E#8 = false ∧ writesByte (.wr8 0x0F#8 0xA7#8) 0x0F#8 = true ∧
    writesByte (.create .time) 0x2F#8 = true ∧ writesByte (.create .time) 0x32#8 = false ∧
    writesFlag (.create .time) .addrUsed = false ∧ writesFlag (.create .address) .addrUsed = true :=
  ⟨⟨_, rfl, by decide⟩, ⟨_, rfl, by decide⟩, ⟨_, rfl, by decide⟩, by decide⟩

theorem witness_EventsComeOnlyFromHandoff :
    Instr.handoff.WellFormed ∧ (∃ u, exec .handoff seeded = .next u ∧ u.out ≠ seeded.out) ∧
    ∃ u, exec (.seedgen .time) ported = .next u ∧ u.out = ported.out :=
  ⟨trivial, ⟨_, rfl, by decide⟩, _, rfl, by decide⟩

theorem witness_PortsAreReadOnlyBySample :
    Instr.permute.WellFormed ∧ hasSampleStage .permute = false ∧ noClock.ports.addrSrc = ported.ports.addrSrc ∧
    noClock.ports.clkNs = ported.ports.clkNs ∧ ported.ports.clkOk = ported.ports.clkOk := by decide

theorem witness_EngineReceivesEveryEvent :
    NoResetNext (facing seeded 0x13107#17) ∧ ∃ u, step (facing seeded 0x13107#17) = .next u ∧ u.engineRx.length = 1 :=
  ⟨by decide, _, rfl, by decide⟩

theorem witness_ParametersAreFixed : ∃ u, step (facing seeded 0x13107#17) = .next u := ⟨_, rfl⟩

/-- A state that meets every invariant, with a sample of the address, an event behind it and a fault recorded. -/
def busy : State :=
  after (step (facing (after (step (facing (after (step (facing State.reset 0x13118#17))) 0x13116#17))) 0x13109#17))

theorem witness_StepKeepsStatusLegal : StatusLegal busy ∧ ∃ u, step busy = .next u := ⟨by decide, _, rfl⟩

theorem witness_StepKeepsEmptyRegistersZero : EmptyIsZero busy ∧ ∃ u, step busy = .next u := ⟨by decide, _, rfl⟩

theorem witness_StepKeepsFaultRecorded : FaultRecorded busy ∧ Halted busy ∧ ∃ u, step busy = .next u :=
  ⟨by decide, by decide, _, rfl⟩

/-- With the strobe low and an event behind it, and with the strobe high. -/
theorem witness_StepKeepsEventsAgreed :
    let high : State := after (step (facing State.reset 0x13118#17))
    (EventsAgree busy ∧ busy.out ≠ [] ∧ busy.engSeedStb = false ∧ ∃ u, step busy = .next u) ∧
    EventsAgree high ∧ high.engSeedStb = true ∧ ∃ u, step high = .next u :=
  ⟨⟨by decide, by decide, by decide, _, rfl⟩, by decide, by decide, _, rfl⟩

theorem witness_invariant : Inv busy := by decide

end Sys2Proof.Tests
end

/-! PROOFS, 10_state.md. First what the updates, an instruction and a step can do, said once; then the obligations. -/

namespace Sys2Proof.Machine

/-! ### Resets, idle steps and transactions as equations of the step -/

theorem step_of_idle {s : State} (hp : s.pending = []) : step s = .next (idle s) := by
  simp [step, nextTurn, hp]

theorem step_of_reset {s : State} {t : Turn} {rest : List Turn} (hp : s.pending = t :: rest) (ha : t.act = .reset) :
    step s = .next (takeReset (beginTurn t rest s)) := by
  simp [step, nextTurn, hp, ha]

theorem step_of_illegalCommand {s : State} {t : Turn} {rest : List Turn} {w : TWord} {d : Byte}
    (hp : s.pending = t :: rest) (ha : t.act = .transact w) (hd : decode w = .illegalCommand d) :
    step s = .next (engineLatch (illegalCommand d (beginTurn t rest s))) := by
  simp [step, nextTurn, hp, ha, hd, onNext]

theorem exec_wr8_cmd (d : Byte) (s : State) : exec (.wr8 cmdOffset d) s = dispatchCommand d s := by
  simp [exec, execWr8]

/-- The engine latches nothing while the strobe is low. -/
theorem engineLatch_of_low {s : State} (h : s.engSeedStb = false) : engineLatch s = s := by
  simp [engineLatch, h]

/-- A transaction is one instruction and the engine's latch: an illegal command byte does what its dispatch would. -/
theorem step_of_transact {s : State} {t : Turn} {rest : List Turn} {w : TWord}
    (hp : s.pending = t :: rest) (ha : t.act = .transact w) :
    ∃ i u, exec i (beginTurn t rest s) = .next u ∧ step s = .next (engineLatch u) := by
  cases hd : decode w with
  | instr i =>
    obtain ⟨u, hu⟩ := exec_answers i (beginTurn t rest s)
    exact ⟨i, u, hu, by simp [step, nextTurn, hp, ha, hd, hu, onNext]⟩
  | illegalCommand d =>
    refine ⟨.wr8 cmdOffset d, _, ?_, step_of_illegalCommand hp ha hd⟩
    rw [exec_wr8_cmd, dispatchCommand_eq, decode_illegalCommand hd]

/-- Everything a step can do: idle, a reset, or one instruction and the engine's latch. -/
theorem step_outcomes {s u : State} (h : step s = .next u) :
    (s.pending = [] ∧ u = idle s) ∨
    (¬ NoResetNext s ∧ ∃ t rest, u = takeReset (beginTurn t rest s)) ∨
    (∃ t rest i v, exec i (beginTurn t rest s) = .next v ∧ u = engineLatch v) := by
  cases hp : s.pending with
  | nil =>
    rw [step_of_idle hp] at h
    injection h with h
    exact .inl ⟨rfl, h.symm⟩
  | cons t rest =>
    cases ha : t.act with
    | reset =>
      rw [step_of_reset hp ha] at h
      injection h with h
      exact .inr (.inl ⟨by simp [hp, ha], t, rest, h.symm⟩)
    | transact w =>
      obtain ⟨i, v, he, hs⟩ := step_of_transact hp ha
      rw [hs] at h
      injection h with h
      exact .inr (.inr ⟨t, rest, i, v, he, h.symm⟩)

/-! ### What an instruction can leave -/

/-- A running SFE takes ILLEGAL_COMMAND for an illegal command byte. -/
theorem illegalCommand_of_running {s : State} (hs : Running s) (d : Byte) :
    illegalCommand d s = { s with status := s.status ||| 0x80#8, cause := 0x02#8, finfo := d } :=
  ((illegalCommand_cases d s).resolve_left fun h => by simp [State.halted, hs] at h).2

/-- A halted SFE ignores an illegal command byte. -/
theorem illegalCommand_of_halted {s : State} (hs : Halted s) (d : Byte) : illegalCommand d s = s :=
  ((illegalCommand_cases d s).resolve_right fun h => by simp [State.halted, hs] at h).2

/-- Everything an instruction can leave: the state it met (ignored), a returned byte, a byte written to RAW, what the stages of a
command leave, or a fault of the table of 60_exceptions.md R151, which a read joins with the byte 0x00. -/
theorem exec_outcomes {i : Instr} {s u : State} (h : exec i s = .next u) :
    u = s ∨
    (∃ off b, i = .rd8 off ∧ u = returnByte b s) ∨
    (s.halted = false ∧ ∃ off d j, i = .wr8 off d ∧ regOf off = .raw j ∧
      u = { s.withFlag .rawV true with raw := s.raw.set j d }) ∨
    (s.halted = false ∧ ∃ c, (i = commandInstr c ∨ ∃ d, i = .wr8 cmdOffset d) ∧ stageOf c s = .ok u) ∨
    (s.halted = false ∧ ∃ c d, FaultRecord (causeCode c) d ∧
      (u = takeFault c d s ∨ ∃ off, i = .rd8 off ∧ u = returnByte 0x00#8 (takeFault c d s))) := by
  rcases exec_cases i s with ⟨off, hi, he⟩ | ⟨off, d, hi, hoff, he⟩ | ⟨c, hi, he⟩ | ⟨d, _, hd, he⟩ <;>
    rw [he] at h <;> injection h with h <;> subst h
  · rcases hostRead_cases off s with ⟨b, _, h⟩ | ⟨_, _, h⟩ | ⟨hn, hr, h⟩
    · exact .inr (.inl ⟨off, b, hi, h⟩)
    · exact .inr (.inl ⟨off, _, hi, h⟩)
    · exact .inr (.inr (.inr (.inr ⟨hr, _, _, illegalRead_record hn, .inr ⟨off, hi, h⟩⟩)))
  · rcases hostWrite_cases off d s with ⟨_, h⟩ | ⟨hr, j, hj, h⟩ | ⟨hr, hn, h⟩
    · exact .inl h
    · exact .inr (.inr (.inl ⟨hr, off, d, j, hi, hj, h⟩))
    · exact .inr (.inr (.inr (.inr ⟨hr, _, _, illegalWrite_record hoff hn, .inl h⟩)))
  · rcases runCommand_cases (commandByte c) (stageOf c) s with ⟨_, h⟩ | ⟨hr, t, ht, h⟩ | ⟨hr, e, he, h⟩
    · exact .inl h
    · exact .inr (.inr (.inr (.inl ⟨hr, c, hi.imp_right fun ⟨d, hd, _⟩ => ⟨d, hd⟩, h ▸ ht⟩)))
    · exact .inr (.inr (.inr (.inr ⟨hr, _, _, stageOf_error_record he, .inl h⟩)))
  · rcases illegalCommand_cases d s with ⟨_, h⟩ | ⟨hr, h⟩
    · exact .inl h
    · exact .inr (.inr (.inr (.inr ⟨hr, _, _, .inr (.inl ⟨rfl, hd⟩), .inl h⟩)))

/-- The term `wr8` of CMD is the one that is ill-formed, so a well-formed instruction that runs a command is that command's. -/
theorem command_of_wellFormed {i : Instr} {c : Command} (hwf : i.WellFormed)
    (h : i = commandInstr c ∨ ∃ d, i = .wr8 cmdOffset d) : i = commandInstr c := by
  rcases h with h | ⟨d, rfl⟩
  · exact h
  · exact absurd rfl hwf

/-! ### Properties that the single updates keep -/

/-- A property that the four updates of the stages keep is kept by the stages of every command. -/
theorem stageOf_keeps_of_updates {P : State → Prop}
    (hsample : ∀ k v s, P s → P (latchSample k v s))
    (hraw : ∀ s r, P s → P { s.withFlag .rawV true with raw := r })
    (hseed : ∀ s q, P s → P { s.withFlag .seedV true with seed := q })
    (hhandoff : ∀ s, P s → P (zeroize (emitSeeded s)).flagsHandedOff)
    {c : Command} {s t : State} (hs : P s) (h : stageOf c s = .ok t) : P t := by
  refine stageOf_keeps (R := fun s t => P s → P t) (fun _ => id) (fun _ _ _ f g => g ∘ f) ?_ ?_ ?_ ?_ ?_ h hs
  · intro k s t h
    rcases stageSample_ok.mp h with ⟨_, _, rfl⟩ | ⟨_, rfl⟩ <;> exact hsample _ _ _
  · intro s t h; obtain ⟨_, rfl⟩ := stageConvert_ok.mp h; exact hraw _ _
  · intro s t h; obtain ⟨_, rfl⟩ := stagePermute_ok.mp h; exact hseed _ _
  · intro s t h; obtain ⟨_, rfl⟩ := stageUnpermute_ok.mp h; exact hraw _ _
  · intro s t h; obtain ⟨_, rfl⟩ := stageHandoff_ok.mp h; exact hhandoff _

/-- The two states agree on the six registers; the records and surroundings may differ. -/
def SameRegisters (s u : State) : Prop :=
  u.smp = s.smp ∧ u.raw = s.raw ∧ u.seed = s.seed ∧ u.status = s.status ∧ u.cause = s.cause ∧ u.finfo = s.finfo

theorem sameRegisters_engineLatch (s : State) : SameRegisters s (engineLatch s) := by simp [SameRegisters]

/-- A property of the registers that holds after a reset and that the fault entry and the four updates of the stages keep is
kept by every step. -/
theorem step_keeps_of_updates {P : State → Prop}
    (hregs : ∀ s u, SameRegisters s u → P s → P u)
    (hreset : ∀ s, P (takeReset s))
    (hfault : ∀ c d s, FaultRecord (causeCode c) d → P s → P (takeFault c d s))
    (hsample : ∀ k v s, P s → P (latchSample k v s))
    (hraw : ∀ s r, P s → P { s.withFlag .rawV true with raw := r })
    (hseed : ∀ s q, P s → P { s.withFlag .seedV true with seed := q })
    (hhandoff : ∀ s, P s → P (zeroize (emitSeeded s)).flagsHandedOff)
    {s u : State} (hs : P s) (h : step s = .next u) : P u :=
  step_keeps
    (hidle := fun s => hregs s _ ⟨rfl, rfl, rfl, rfl, rfl, rfl⟩)
    (hbegin := fun _ _ s => hregs s _ ⟨rfl, rfl, rfl, rfl, rfl, rfl⟩)
    (hreset := fun _ _ _ _ => hreset _)
    (hlatch := fun _ _ u _ _ _ => hregs u _ (sameRegisters_engineLatch u))
    (hreturn := fun _ s => hregs s _ ⟨rfl, rfl, rfl, rfl, rfl, rfl⟩)
    (hfault := fun c d s _ => hfault c d s)
    (hwrite := fun s _ _ => hraw s _)
    (hstage := fun _ _ _ => stageOf_keeps_of_updates hsample hraw hseed hhandoff) hs h

theorem SameRegisters.flag {s u : State} (h : SameRegisters s u) (b : StatusBit) : u.flag b = s.flag b := by
  obtain ⟨_, _, _, hst, _, _⟩ := h
  simp [State.flag, hst]

/-! ### The invariants of the registers -/

/-- The four invariants at reset. -/
theorem reset_inv : Inv State.reset := by decide

/-- Settles O56: each invariant is decided on the reset values. -/
theorem resetMeetsInvariants : Obligations.ResetMeetsInvariants := reset_inv

/-- Only a SAMPLE stage raises SMP_KIND: with SMP_V, and with ADDR_USED when the kind is the address. -/
theorem latchSample_statusLegal (k : Kind) (v : Sample) {s : State} (h : StatusLegal s) :
    StatusLegal (latchSample k v s) := by
  refine ⟨?_, fun _ => by simp [latchSample_flag], fun hk => ?_⟩
  · cases k <;> simpa [State.flagsSampled] using h.1
  · have hk : smpKindOf k = true := by simpa [latchSample_flag] using hk
    simp [latchSample_flag, hk]

/-- Settles O57: only a SAMPLE stage raises SMP_KIND, and only HANDOFF, which clears SMP_KIND too, clears SMP_V. -/
theorem stepKeepsStatusLegal : Obligations.StepKeepsStatusLegal := by
  intro s u hs h
  refine step_keeps_of_updates ?regs ?reset ?fault ?sample ?raw ?seed ?handoff hs h
  case regs =>
    intro s u hr hs
    have hflag := hr.flag
    obtain ⟨_, _, _, hst, _, _⟩ := hr
    simpa only [StatusLegal, hflag, hst] using hs
  case reset => exact fun s => ⟨by simp [State.reset], by simp, by simp⟩
  case fault => intro c d s _ hs; simpa [StatusLegal] using hs
  case sample => exact fun k v s => latchSample_statusLegal k v
  case raw => intro s r hs; simpa [StatusLegal, State.flag] using hs
  case seed => intro s r hs; simpa [StatusLegal, State.flag] using hs
  case handoff => intro s hs; exact ⟨by simpa using hs.1, by simp [flagsHandedOff_flag], by simp [flagsHandedOff_flag]⟩

/-- Settles O58: a register is written together with its valid bit, and a HANDOFF, which clears the bits, zeroizes. -/
theorem stepKeepsEmptyRegistersZero : Obligations.StepKeepsEmptyRegistersZero := by
  intro s u hs h
  refine step_keeps_of_updates ?regs ?reset ?fault ?sample ?raw ?seed ?handoff hs h
  case regs =>
    intro s u hr hs
    have hflag := hr.flag
    obtain ⟨hsmp, hraw, hseed, _, _, _⟩ := hr
    simpa only [EmptyIsZero, hflag, hsmp, hraw, hseed] using hs
  case reset => exact fun s => ⟨fun _ => rfl, fun _ => rfl, fun _ => rfl⟩
  case fault => intro c d s _ hs; simpa [EmptyIsZero] using hs
  case sample => intro k v s ⟨_, hraw, hseed⟩; simpa [EmptyIsZero, latchSample_flag] using ⟨hraw, hseed⟩
  case raw => intro s r ⟨hsmp, _, hseed⟩; simpa [EmptyIsZero, State.flag] using ⟨hsmp, hseed⟩
  case seed => intro s r ⟨hsmp, hraw, _⟩; simpa [EmptyIsZero, State.flag] using ⟨hsmp, hraw⟩
  case handoff => exact fun s _ => ⟨fun _ => rfl, fun _ => rfl, fun _ => rfl⟩

/-- Settles O59: the fault entry records a cause of the table, and nothing else writes FAULT, CAUSE or FINFO. -/
theorem stepKeepsFaultRecorded : Obligations.StepKeepsFaultRecorded := by
  intro s u hs h
  refine step_keeps_of_updates ?regs ?reset ?fault ?sample ?raw ?seed ?handoff hs h
  case regs =>
    intro s u hr hs
    have hflag := hr.flag
    obtain ⟨_, _, _, _, hc, hf⟩ := hr
    simpa only [FaultRecorded, hflag, hc, hf] using hs
  case reset => exact fun s => ⟨fun _ => ⟨rfl, rfl⟩, by simp⟩
  case fault => exact fun c d s hrec _ => ⟨by simp, fun _ => hrec⟩
  case sample => intro k v s hs; simpa only [FaultRecorded, latchSample_flag, latchSample_cause, latchSample_finfo] using hs
  case raw => intro s r hs; simpa [FaultRecorded, State.flag] using hs
  case seed => intro s r hs; simpa [FaultRecorded, State.flag] using hs
  case handoff => intro s hs; simpa [FaultRecorded, flagsHandedOff_flag] using hs

/-! ### Events -/

/-- No event: OUT, the output port and ENG_SEEDED are as before. -/
def Quiet (s u : State) : Prop :=
  u.out = s.out ∧ u.engSeed = s.engSeed ∧ u.engSeedStb = s.engSeedStb ∧ u.flag .engSeeded = s.flag .engSeeded

/-- One event, of the bytes that the lanes then carry. -/
def Emits (s u : State) : Prop :=
  u.out = s.out ++ [{ bytes := u.engSeed }] ∧ u.engSeedStb = true ∧ u.flag .engSeeded = true

theorem Quiet.refl (s : State) : Quiet s s := ⟨rfl, rfl, rfl, rfl⟩

theorem Quiet.trans {s t u : State} (h : Quiet s t) (h' : Quiet t u) : Quiet s u := by
  obtain ⟨hout, hlanes, hstb, hflag⟩ := h
  obtain ⟨hout', hlanes', hstb', hflag'⟩ := h'
  exact ⟨hout'.trans hout, hlanes'.trans hlanes, hstb'.trans hstb, hflag'.trans hflag⟩

theorem Quiet.trans_emits {s t u : State} (h : Quiet s t) (h' : Emits t u) : Emits s u := by
  obtain ⟨hout, hstb, hflag⟩ := h'
  exact ⟨h.1 ▸ hout, hstb, hflag⟩

theorem takeFault_quiet (c : Cause) (d : Byte) (s : State) : Quiet s (takeFault c d s) := by simp [Quiet]

theorem stageSample_quiet {k : Kind} {s t : State} (h : stageSample k s = .ok t) : Quiet s t := by
  rcases stageSample_ok.mp h with ⟨_, _, rfl⟩ | ⟨_, rfl⟩ <;> simp [Quiet, latchSample_flag]

theorem stageConvert_quiet {s t : State} (h : stageConvert s = .ok t) : Quiet s t := by
  obtain ⟨_, rfl⟩ := stageConvert_ok.mp h; simp [Quiet, State.flag]

theorem stagePermute_quiet {s t : State} (h : stagePermute s = .ok t) : Quiet s t := by
  obtain ⟨_, rfl⟩ := stagePermute_ok.mp h; simp [Quiet, State.flag]

theorem stageUnpermute_quiet {s t : State} (h : stageUnpermute s = .ok t) : Quiet s t := by
  obtain ⟨_, rfl⟩ := stageUnpermute_ok.mp h; simp [Quiet, State.flag]

theorem stageCapture_quiet {k : Kind} {s t : State} (h : stageCapture k s = .ok t) : Quiet s t := by
  obtain ⟨_, hs, hc⟩ := thenStage_ok.mp h
  exact (stageSample_quiet hs).trans (stageConvert_quiet hc)

theorem stageSeedgen_quiet {k : Kind} {s t : State} (h : stageSeedgen k s = .ok t) : Quiet s t := by
  obtain ⟨_, hc, hp⟩ := thenStage_ok.mp h
  exact (stageCapture_quiet hc).trans (stagePermute_quiet hp)

/-- The HANDOFF stage emits SEED. -/
theorem stageHandoff_emits {s t : State} (h : stageHandoff s = .ok t) : Emits s t ∧ t.engSeed = s.seed := by
  obtain ⟨_, rfl⟩ := stageHandoff_ok.mp h
  simp [Emits, flagsHandedOff_flag]

theorem stageCreate_emits {k : Kind} {s t : State} (h : stageCreate k s = .ok t) : Emits s t := by
  obtain ⟨_, hs, hh⟩ := thenStage_ok.mp h
  exact (stageSeedgen_quiet hs).trans_emits (stageHandoff_emits hh).1

/-- The stages of a command emit one event if HANDOFF is among them, else none. -/
theorem stageOf_events {c : Command} {s t : State} (h : stageOf c s = .ok t) :
    Quiet s t ∨ (hasHandoffStage (commandInstr c) = true ∧ Emits s t ∧ (c = .handoff → t.engSeed = s.seed)) := by
  cases c with
  | nop => injection h with h; exact .inl (h ▸ Quiet.refl s)
  | sample k => exact .inl (stageSample_quiet h)
  | convert => exact .inl (stageConvert_quiet h)
  | permute => exact .inl (stagePermute_quiet h)
  | unpermute => exact .inl (stageUnpermute_quiet h)
  | capture k => exact .inl (stageCapture_quiet h)
  | seedgen k => exact .inl (stageSeedgen_quiet h)
  | handoff => exact .inr ⟨rfl, (stageHandoff_emits h).1, fun _ => (stageHandoff_emits h).2⟩
  | create k => exact .inr ⟨rfl, stageCreate_emits h, nofun⟩

/-- An instruction emits no event, or runs a command with a HANDOFF stage, which emits one. -/
theorem exec_events {i : Instr} {s u : State} (h : exec i s = .next u) :
    Quiet s u ∨ ∃ c, (i = commandInstr c ∨ ∃ d, i = .wr8 cmdOffset d) ∧ hasHandoffStage (commandInstr c) = true ∧
      Emits s u ∧ (c = .handoff → u.engSeed = s.seed) := by
  rcases exec_outcomes h with rfl | ⟨_, _, _, rfl⟩ | ⟨_, _, _, _, _, _, rfl⟩ | ⟨_, c, hi, ht⟩ |
    ⟨_, c, d, _, rfl | ⟨_, _, rfl⟩⟩
  · exact .inl (Quiet.refl _)
  · exact .inl (Quiet.refl _)
  · exact .inl (by simp [Quiet, State.flag])
  · exact (stageOf_events ht).imp_right fun he => ⟨c, hi, he⟩
  · exact .inl (takeFault_quiet c d s)
  · exact .inl (takeFault_quiet c d s)

/-- Settles O52: by `exec_events`, whose command is the instruction itself when that is well-formed. -/
theorem eventsComeOnlyFromHandoff : Obligations.EventsComeOnlyFromHandoff := by
  intro i s u hwf h
  rcases exec_events h with ⟨hout, hlanes, hstb, _⟩ | ⟨c, hi, hstage, ⟨hout, hstb, _⟩, hseed⟩
  · exact .inl ⟨hout, hlanes, hstb⟩
  · obtain rfl := command_of_wellFormed hwf hi
    refine .inr ⟨hstage, hout, hstb, fun hc => hseed ?_⟩
    cases c with
    | handoff => rfl
    | _ => cases hc

/-- A step is a reset; or it leaves the strobe low and the lanes zero and emits nothing; or it emits one event, which the lanes
carry and which the engine receives. -/
theorem step_events {s u : State} (h : step s = .next u) :
    (¬ NoResetNext s ∧ ∃ v, u = takeReset v) ∨
    (u.out = s.out ∧ u.engineRx = s.engineRx ∧ u.engSeedStb = false ∧ u.engSeed = zeros16 ∧
      u.flag .engSeeded = s.flag .engSeeded) ∨
    (u.out = s.out ++ [{ bytes := u.engSeed }] ∧ u.engineRx = s.engineRx ++ [{ bytes := u.engSeed }] ∧
      u.engSeedStb = true ∧ u.flag .engSeeded = true) := by
  rcases step_outcomes h with ⟨_, rfl⟩ | ⟨hn, t, rest, hv⟩ | ⟨t, rest, i, v, he, rfl⟩
  · exact .inr (.inl ⟨rfl, rfl, rfl, rfl, rfl⟩)
  · exact .inl ⟨hn, _, hv⟩
  · obtain ⟨_, _, _, hrx, _⟩ := exec_surroundings he
    rcases exec_events he with ⟨hout, hlanes, hstb, hflag⟩ | ⟨_, _, _, ⟨hout, hstb, hflag⟩, _⟩
    · have hlow : v.engSeedStb = false := hstb
      rw [engineLatch_of_low hlow]
      exact .inr (.inl ⟨hout, hrx, hlow, hlanes, hflag⟩)
    · exact .inr (.inr ⟨by simpa using hout, by simp [hstb, hrx], by simpa using hstb, by simpa using hflag⟩)

/-- Settles O54: the events of a step are those of `step_events`. -/
theorem engineReceivesEveryEvent : Obligations.EngineReceivesEveryEvent := by
  intro s u hn h
  rcases step_events h with ⟨hreset, _⟩ | ⟨hout, hrx, hstb, _, _⟩ | ⟨hout, hrx, hstb, _⟩
  · exact absurd hn hreset
  · exact ⟨[], by simp [hout, hrx, hstb]⟩
  · exact ⟨[{ bytes := u.engSeed }], by simp [hout, hrx, hstb]⟩

theorem lastSeed_append (out : List Seeded) (b : Bytes16) : lastSeed (out ++ [{ bytes := b }]) = b := by
  simp [lastSeed]

/-- A reset empties OUT and the port and clears ENG_SEEDED; the engine keeps what it has. -/
theorem takeReset_eventsAgree (s : State) : EventsAgree (takeReset s) :=
  ⟨by simp [State.reset], by simp [State.reset], rfl, List.nil_suffix⟩

/-- Settles O60: in each case of `step_events` the flag, OUT, the lanes and the engine's record move together. -/
theorem stepKeepsEventsAgreed : Obligations.StepKeepsEventsAgreed := by
  intro s u ⟨hseeded, _, _, hsuffix⟩ h
  rcases step_events h with ⟨_, v, rfl⟩ | ⟨hout, hrx, hstb, hlanes, hflag⟩ | ⟨hout, hrx, hstb, hflag⟩
  · exact takeReset_eventsAgree v
  · exact ⟨by rw [hflag, hout, hseeded], by simp [hstb], by simp [hstb, hlanes], by rwa [hout, hrx]⟩
  · refine ⟨by simp [hout, hflag], by simp [hout], ?_, ?_⟩
    · rw [hout, lastSeed_append, hstb, if_pos rfl]
    · rw [hout, hrx]
      exact List.suffix_append_self_iff.mpr hsuffix

/-! ### Steps of every kind: the halted state, the sticky flags, the parameters, the dispatch of CMD -/

/-- A halted SFE ignores every instruction but a read, which returns one byte. -/
theorem exec_of_halted {i : Instr} {s u : State} (hs : Halted s) (h : exec i s = .next u) :
    u = s ∨ ∃ b, u = returnByte b s := by
  have not_running : s.halted ≠ false := by simp [State.halted, hs]
  rcases exec_outcomes h with h | ⟨_, b, _, h⟩ | ⟨hr, _⟩ | ⟨hr, _⟩ | ⟨hr, _⟩
  · exact .inl h
  · exact .inr ⟨b, h⟩
  all_goals exact absurd hr not_running

/-- Settles O47: by `exec_of_halted`, and the engine latches nothing, since the strobe is low. -/
theorem haltedStepKeepsEverything : Obligations.HaltedStepKeepsEverything := by
  intro s t rest w hs hp ha
  obtain ⟨i, u, he, hstep⟩ := step_of_transact hp ha
  rcases exec_of_halted (s := beginTurn t rest s) hs he with rfl | ⟨b, rfl⟩
  · refine ⟨[], by simp, ?_⟩
    rw [hstep, engineLatch_of_low rfl, List.append_nil]
    rfl
  · refine ⟨[b], by simp, ?_⟩
    rw [hstep, engineLatch_of_low rfl]
    rfl

/-- The flags that only a reset clears (10_state.md R25). -/
def Sticky (b : StatusBit) : Prop := b = .fault ∨ b = .engSeeded ∨ b = .addrUsed

/-- No stage clears a sticky flag. -/
theorem stageOf_keeps_sticky {b : StatusBit} (hb : Sticky b) {c : Command} {s t : State} (hs : s.flag b = true)
    (h : stageOf c s = .ok t) : t.flag b = true := by
  refine stageOf_keeps_of_updates (P := fun s => s.flag b = true) ?sample ?raw ?seed ?handoff hs h
  case sample => intro k v s hs; rcases hb with rfl | rfl | rfl <;> simp [latchSample_flag, hs]
  case raw => intro s r hs; rcases hb with rfl | rfl | rfl <;> simpa [State.flag] using hs
  case seed => intro s q hs; rcases hb with rfl | rfl | rfl <;> simpa [State.flag] using hs
  case handoff => intro s hs; rcases hb with rfl | rfl | rfl <;> simp [flagsHandedOff_flag, hs]

/-- No instruction clears a sticky flag. -/
theorem exec_keeps_sticky {b : StatusBit} (hb : Sticky b) {i : Instr} {s u : State} (hs : s.flag b = true)
    (h : exec i s = .next u) : u.flag b = true := by
  rcases exec_outcomes h with rfl | ⟨_, _, _, rfl⟩ | ⟨_, _, _, _, _, _, rfl⟩ | ⟨_, c, _, ht⟩ |
    ⟨_, _, _, _, rfl | ⟨_, _, rfl⟩⟩
  · exact hs
  · exact hs
  · rcases hb with rfl | rfl | rfl <;> simpa [State.flag] using hs
  · exact stageOf_keeps_sticky hb hs ht
  · simp [hs]
  · simp [hs]

/-- No step but a reset clears a sticky flag. -/
theorem step_keeps_sticky {b : StatusBit} (hb : Sticky b) {s u : State} (hn : NoResetNext s) (h : step s = .next u)
    (hs : s.flag b = true) : u.flag b = true := by
  rcases step_outcomes h with ⟨_, rfl⟩ | ⟨hreset, _⟩ | ⟨t, rest, _, v, he, rfl⟩
  · exact hs
  · exact absurd hn hreset
  · simpa using exec_keeps_sticky (s := beginTurn t rest s) hb hs he

/-- Settles O48: the three flags are the sticky ones. -/
theorem onlyResetClearsStickyFlags : Obligations.OnlyResetClearsStickyFlags := fun _ _ hn h =>
  ⟨step_keeps_sticky (.inl rfl) hn h, step_keeps_sticky (.inr (.inl rfl)) hn h, step_keeps_sticky (.inr (.inr rfl)) hn h⟩

/-- Settles O55: the turn, the latch and a reset keep the parameters, and so does every instruction. -/
theorem parametersAreFixed : Obligations.ParametersAreFixed := by
  intro s u h
  rcases step_outcomes h with ⟨_, rfl⟩ | ⟨_, _, _, rfl⟩ | ⟨t, rest, _, v, he, rfl⟩
  · rfl
  · rfl
  · obtain ⟨hparams, _⟩ := exec_surroundings he
    simpa using hparams

/-- Settles O27: the word is the write of the byte to CMD, and `decode_command` and `dispatchCommand_eq` split alike. -/
theorem writeToCmdRunsCommand : Obligations.WriteToCmdRunsCommand := by
  intro s d
  have hword : decode (1#1 ++ 0x31#8 ++ d) = _ := decode_command d
  have hexec : exec (.wr8 0x31#8 d) s = _ := (exec_wr8_cmd d s).trans (dispatchCommand_eq d s)
  rw [hword, hexec]
  cases decodeCommand d with
  | none => exact ⟨nofun, fun _ hr => by rw [← illegalCommand_of_running hr]⟩
  | some c =>
    refine ⟨fun i hi => ?_, nofun⟩
    injection hi with hi
    rw [← hi, exec_command]

/-! ### What an instruction leaves unchanged -/

/-- The registers' part of the frame: what `i` does not write (10_state.md R22 to R25), CAUSE and FINFO are as before. -/
def FramedBy (i : Instr) (s u : State) : Prop :=
  (∀ a : Byte, a ≠ 0x30#8 → writesByte i a = false → u.regByte a = s.regByte a) ∧
  (∀ b : StatusBit, writesFlag i b = false → u.flag b = s.flag b) ∧
  u.status.getLsbD 6 = s.status.getLsbD 6 ∧ u.cause = s.cause ∧ u.finfo = s.finfo ∧ u.reads = s.reads

/-- Two frames in a row are the frame of an instruction that writes what either writes. -/
theorem FramedBy.trans {i j n : Instr} {s t u : State} (hs : FramedBy i s t) (ht : FramedBy j t u)
    (hbyte : ∀ a, writesByte n a = (writesByte i a || writesByte j a))
    (hflag : ∀ b, writesFlag n b = (writesFlag i b || writesFlag j b)) : FramedBy n s u := by
  obtain ⟨sb, sf, s6, sc, si, sr⟩ := hs
  obtain ⟨tb, tf, t6, tc, ti, tr⟩ := ht
  refine ⟨fun a ha hw => ?_, fun b hw => ?_, t6.trans s6, tc.trans sc, ti.trans si, tr.trans sr⟩
  · obtain ⟨hi, hj⟩ := Bool.or_eq_false_iff.mp (hbyte a ▸ hw)
    exact (tb a ha hj).trans (sb a ha hi)
  · obtain ⟨hi, hj⟩ := Bool.or_eq_false_iff.mp (hflag b ▸ hw)
    exact (tf b hj).trans (sf b hi)

theorem framedBy_refl (i : Instr) (s : State) : FramedBy i s s :=
  ⟨fun _ _ _ => rfl, fun _ _ => rfl, rfl, rfl, rfl, rfl⟩

/-- A SAMPLE stage writes the SMP row. -/
theorem latchSample_framed (k : Kind) (v : Sample) (s : State) : FramedBy (.sample k) s (latchSample k v s) := by
  refine ⟨fun a ha hw => ?_, fun b hw => ?_, ?_, by simp, by simp, by simp⟩
  · have hrow : 0x20 ≤ a.toNat → 0x30 ≤ a.toNat := by simpa [writesByte] using hw
    exact regByte_of_rows a (by simp) (by simp) (by omega) (absurd · ha) (by simp) (by simp)
  · cases k <;> cases b <;> simp_all [writesFlag, latchSample_flag, smpKindOf]
  · cases k <;> simp [State.flagsSampled]

/-- A stage that fills RAW writes the RAW row and RAW_V, as CONVERT and UNPERMUTE are said to. -/
theorem fillRaw_framed {i : Instr} (hbyte : ∀ a, writesByte i a = decide (a.toNat < 0x10))
    (hflag : ∀ b, writesFlag i b = decide (b = .rawV)) (s : State) (r : Bytes16) :
    FramedBy i s { s.withFlag .rawV true with raw := r } := by
  refine ⟨fun a ha hw => ?_, fun b hw => ?_, by simp, rfl, rfl, rfl⟩
  · have hrow : ¬ a.toNat < 0x10 := by simpa [hbyte] using hw
    exact regByte_of_rows a (absurd · hrow) (by simp) (by simp) (absurd · ha) (by simp) (by simp)
  · have hne : b ≠ .rawV := by simpa [hflag] using hw
    simp [State.flag, hne.symm]

/-- PERMUTE writes the SEED row and SEED_V. -/
theorem fillSeed_framed (s : State) (q : Bytes16) : FramedBy .permute s { s.withFlag .seedV true with seed := q } := by
  refine ⟨fun a ha hw => ?_, fun b hw => ?_, by simp, rfl, rfl, rfl⟩
  · have hrow : 0x10 ≤ a.toNat → 0x20 ≤ a.toNat := by simpa [writesByte] using hw
    exact regByte_of_rows a (by simp) (by omega) (by simp) (absurd · ha) (by simp) (by simp)
  · have hne : b ≠ .seedV := by simpa [writesFlag] using hw
    simp [State.flag, hne.symm]

/-- HANDOFF writes all three rows and clears the valid bits. -/
theorem handedOff_framed (s : State) : FramedBy .handoff s (zeroize (emitSeeded s)).flagsHandedOff := by
  refine ⟨fun a ha hw => ?_, fun b hw => ?_, by simp, rfl, rfl, rfl⟩
  · have hrow : 0x30 ≤ a.toNat := by simpa [writesByte] using hw
    exact regByte_of_rows a (by omega) (by omega) (by omega) (absurd · ha) (by simp) (by simp)
  · cases b <;> simp_all [writesFlag, flagsHandedOff_flag]

theorem stageSample_framed {k : Kind} {s t : State} (h : stageSample k s = .ok t) : FramedBy (.sample k) s t := by
  rcases stageSample_ok.mp h with ⟨rfl, _, rfl⟩ | ⟨rfl, rfl⟩ <;> exact latchSample_framed _ _ _

theorem stageConvert_framed {s t : State} (h : stageConvert s = .ok t) : FramedBy .convert s t := by
  obtain ⟨_, rfl⟩ := stageConvert_ok.mp h
  exact fillRaw_framed (fun _ => rfl) (fun _ => rfl) s _

theorem stagePermute_framed {s t : State} (h : stagePermute s = .ok t) : FramedBy .permute s t := by
  obtain ⟨_, rfl⟩ := stagePermute_ok.mp h
  exact fillSeed_framed s _

theorem stageUnpermute_framed {s t : State} (h : stageUnpermute s = .ok t) : FramedBy .unpermute s t := by
  obtain ⟨_, rfl⟩ := stageUnpermute_ok.mp h
  exact fillRaw_framed (fun _ => rfl) (fun _ => rfl) s _

theorem stageHandoff_framed {s t : State} (h : stageHandoff s = .ok t) : FramedBy .handoff s t := by
  obtain ⟨_, rfl⟩ := stageHandoff_ok.mp h
  exact handedOff_framed s

theorem stageCapture_framed {k : Kind} {s t : State} (h : stageCapture k s = .ok t) : FramedBy (.capture k) s t := by
  obtain ⟨_, hs, hc⟩ := thenStage_ok.mp h
  refine (stageSample_framed hs).trans (stageConvert_framed hc) (by cases k <;> decide) fun b => ?_
  cases k <;> cases b <;> rfl

theorem stageSeedgen_framed {k : Kind} {s t : State} (h : stageSeedgen k s = .ok t) : FramedBy (.seedgen k) s t := by
  obtain ⟨_, hc, hp⟩ := thenStage_ok.mp h
  refine (stageCapture_framed hc).trans (stagePermute_framed hp) (by cases k <;> decide) fun b => ?_
  cases k <;> cases b <;> rfl

theorem stageCreate_framed {k : Kind} {s t : State} (h : stageCreate k s = .ok t) : FramedBy (.create k) s t := by
  obtain ⟨_, hs, hh⟩ := thenStage_ok.mp h
  refine (stageSeedgen_framed hs).trans (stageHandoff_framed hh) (by cases k <;> decide) fun b => ?_
  cases k <;> cases b <;> rfl

/-- The stages of a command write what its instruction is said to write. -/
theorem stageOf_framed {c : Command} {s t : State} (h : stageOf c s = .ok t) : FramedBy (commandInstr c) s t := by
  cases c with
  | nop => injection h with h; exact h ▸ framedBy_refl _ s
  | sample k => exact stageSample_framed h
  | convert => exact stageConvert_framed h
  | permute => exact stagePermute_framed h
  | unpermute => exact stageUnpermute_framed h
  | capture k => exact stageCapture_framed h
  | seedgen k => exact stageSeedgen_framed h
  | handoff => exact stageHandoff_framed h
  | create k => exact stageCreate_framed h

/-- A byte written to RAW[j] changes the byte at offset j only. -/
theorem writeRaw_framed {off : Byte} {j : Fin 16} (hj : regOf off = .raw j) (d : Byte) (s : State) :
    FramedBy (.wr8 off d) s { s.withFlag .rawV true with raw := s.raw.set j d } := by
  have hoff : off.toNat < 0x10 := (regOf_isRaw off).mp ⟨j, hj⟩
  refine ⟨fun a ha hw => ?_, fun b hw => ?_, by simp, rfl, rfl, rfl⟩
  · have hne : a ≠ off := by simpa [writesByte, hoff] using hw
    by_cases hrow : ∃ l, regOf a = .raw l
    · obtain ⟨l, hl⟩ := hrow
      have hlj : j.val ≠ l.val := fun he => hne (by rw [regOf_eq_raw.mp hl, regOf_eq_raw.mp hj, he])
      exact regByte_congr (by simp [hl, State.regRead, Vector.getElem_set_ne _ _ hlj])
    · exact regByte_of_rows a (fun h => absurd ((regOf_isRaw a).mpr h) hrow) (by simp) (by simp) (absurd · ha) (by simp)
        (by simp)
  · have hne : b ≠ .rawV := by simpa [writesFlag] using hw
    simp [State.flag, hne.symm]

/-- Settles O51: an instruction that takes no fault is ignored, returns a byte, writes RAW, or runs its stages, each with its
frame; `exec_surroundings` gives the rest. -/
theorem frameOfEveryInstruction : Obligations.FrameOfEveryInstruction := by
  intro i s u hwf h hfault
  have no_fault : ∀ c d, s.halted = false → u.flag .fault = (takeFault c d s).flag .fault → False := by
    intro c d hr he
    simp [he, show s.flag .fault = false from hr] at hfault
  obtain ⟨hparams, hports, hpending, hrx, htick⟩ := exec_surroundings h
  have framed : FramedBy i s u ∨ ∃ off b, i = .rd8 off ∧ u = returnByte b s := by
    rcases exec_outcomes h with rfl | hread | ⟨_, off, d, j, rfl, hj, rfl⟩ | ⟨_, c, hi, ht⟩ |
      ⟨hr, c, d, _, rfl | ⟨_, _, rfl⟩⟩
    · exact .inl (framedBy_refl i u)
    · exact .inr hread
    · exact .inl (writeRaw_framed hj d s)
    · exact .inl (command_of_wellFormed hwf hi ▸ stageOf_framed ht)
    · exact (no_fault c d hr rfl).elim
    · exact (no_fault c d hr rfl).elim
  rcases framed with ⟨hbyte, hflag, h6, hc, hf, hreads⟩ | ⟨off, b, hi, rfl⟩
  · exact ⟨hbyte, hflag, h6, hc, hf, hparams, hports, hpending, hrx, htick, .inl hreads⟩
  · exact ⟨fun _ _ _ => rfl, fun _ _ => rfl, rfl, rfl, rfl, hparams, hports, hpending, hrx, htick,
      .inr ⟨off, hi, b, rfl⟩⟩

/-! ### Reading STATUS, the reset, the step, single instructions -/

/-- Settles O15: the byte at 0x30 is `statusRead` of STATUS. -/
theorem statusReadsReservedBitAsZero : Obligations.StatusReadsReservedBitAsZero := fun s =>
  ⟨statusRead s.status, rfl, statusRead_bit6 _, statusRead_getBit _⟩

/-- Settles O16: the arrays are `zeros16`, whose elements are 0, and the other elements are 0 as written. -/
theorem resetValues : Obligations.ResetValues :=
  ⟨rfl, zeros16_get, zeros16_get, rfl, rfl, rfl, rfl, zeros16_get, rfl⟩

/-- Settles O17: the step is the reset of the turn's state. -/
theorem resetStepGivesResetValues : Obligations.ResetStepGivesResetValues := fun _ _ _ hp ha => step_of_reset hp ha

/-- Settles O19: the step takes the byte's fault or ignores it, and the engine latches nothing, since the strobe is low. -/
theorem stepTakesIllegalCommand : Obligations.StepTakesIllegalCommand := by
  intro s t rest w d hp ha hd
  rw [step_of_illegalCommand hp ha hd]
  constructor
  · intro hr
    rw [illegalCommand_of_running (s := beginTurn t rest s) hr, engineLatch_of_low rfl]
    rfl
  · intro hh
    rw [illegalCommand_of_halted (s := beginTurn t rest s) hh, engineLatch_of_low rfl]
    rfl

/-- Settles O20: the step is idle. -/
theorem idleStepKeepsState : Obligations.IdleStepKeepsState := fun _ hp => step_of_idle hp

/-- Settles O25: offset i names RAW[i] and is not CMD. -/
theorem writeRawByte : Obligations.WriteRawByte := by
  intro s i d hr
  have hoff : BitVec.ofNat 8 i.val ≠ cmdOffset := by revert i; decide
  rw [exec_wr8 hoff, hostWrite, if_neg (by simp [State.halted, hr]), regOf_raw]
  rfl

/-- What a HANDOFF stage leaves, field by field. -/
theorem handedOff_eq (s : State) : (zeroize (emitSeeded s)).flagsHandedOff =
    { s with smp := 0#128, raw := zeros16, seed := zeros16, status := (s.status ||| 0x08#8) &&& 0xD8#8,
             out := s.out ++ [{ bytes := s.seed }], engSeed := s.seed, engSeedStb := true } := by
  have hst : (zeroize (emitSeeded s)).flagsHandedOff.status = (s.status ||| 0x08#8) &&& 0xD8#8 := flagsHandedOff_byte _
  rw [← hst]
  rfl

/-- Settles O39: the HANDOFF stage succeeds, and leaves `handedOff_eq`. -/
theorem handoffEmitsAndZeroizes : Obligations.HandoffEmitsAndZeroizes := by
  intro s hr hv
  rw [← handedOff_eq]
  exact exec_command_ok (c := .handoff) hr (stageHandoff_ok.mpr ⟨hv, rfl⟩)

/-- The flags that SAMPLE, CONVERT, PERMUTE set do not outlive a HANDOFF, but for ADDR_USED. -/
theorem afterSeedgen_time_status (s : State) :
    ((afterSeedgen .time s).status ||| 0x08#8) &&& 0xD8#8 = (s.status ||| 0x08#8) &&& 0xD8#8 := by
  have key : ∀ st : Byte, (setBit (setBit (setBit (setBit st .smpV true) .smpKind false) .rawV true) .seedV true
      ||| 0x08#8) &&& 0xD8#8 = (st ||| 0x08#8) &&& 0xD8#8 := by decide
  exact key s.status

theorem afterSeedgen_address_status (s : State) :
    ((afterSeedgen .address s).status ||| 0x08#8) &&& 0xD8#8 = (s.status ||| 0x18#8) &&& 0xD8#8 := by
  have key : ∀ st : Byte, (setBit (setBit (setBit (setBit (setBit st .addrUsed true) .smpV true) .smpKind true) .rawV true)
      .seedV true ||| 0x08#8) &&& 0xD8#8 = (st ||| 0x18#8) &&& 0xD8#8 := by decide
  exact key s.status

/-- Settles O40: `stageCreate_afterCreate` and `handedOff_eq` of the state that SEEDGEN leaves. -/
theorem createResult : Obligations.CreateResult := by
  intro s hr
  have hrun : ∀ k, CanSample k s → exec (.create k) s = .next (afterCreate k s) := fun k hk =>
    exec_command_ok (c := .create k) hr (stageCreate_afterCreate hk)
  constructor
  · intro hclk
    rw [hrun .time fun _ => hclk, afterCreate, handedOff_eq, afterSeedgen_time_status]
    rfl
  · rw [hrun .address nofun, afterCreate, handedOff_eq, afterSeedgen_address_status]
    rfl

end Sys2Proof.Machine

/-! PROOFS, 20_memory.md. The transaction as an equation of the step, the bytes that reads give, and what the ports may change;
then the obligations. -/

namespace Sys2Proof

/-- A well-formed instruction is what its word decodes to. -/
theorem decode_encode {i : Instr} (hwf : i.WellFormed) : decode (encode i) = .instr i := by
  rcases Machine.instr_cases i with ⟨off, rfl⟩ | ⟨off, d, rfl, hoff⟩ | ⟨d, rfl⟩ | ⟨c, rfl⟩
  · exact decode_read off 0#8
  · exact decode_write hoff d
  · exact absurd rfl hwf
  · rw [encode_command, decode_command, decodeCommand_commandByte]

end Sys2Proof

namespace Sys2Proof.Machine

/-! ### The step of a decoded word -/

theorem step_of_instr {s : State} {t : Turn} {rest : List Turn} {w : TWord} {i : Instr}
    (hp : s.pending = t :: rest) (ha : t.act = .transact w) (hd : decode w = .instr i) :
    step s = onNext engineLatch (exec i (beginTurn t rest s)) := by
  simp [step, nextTurn, hp, ha, hd]

/-- Settles O18: the state written out is the turn's. -/
theorem stepRunsDecodedInstruction : Obligations.StepRunsDecodedInstruction := fun _ _ _ _ _ hp ha hd =>
  step_of_instr hp ha hd

/-- A word placed by its own number is the next turn. -/
theorem placeWord_pending (s : State) (w : TWord) : (placeWord s 17 w.toNat).pending = wordTurn w :: s.pending := by
  rw [placeWord, Nat.mod_eq_of_lt w.isLt, BitVec.ofNat_toNat, BitVec.setWidth_eq]

/-- Settles O22: the placed word is the next turn and decodes to its instruction. -/
theorem placedWordRunsNext : Obligations.PlacedWordRunsNext := fun s i hwf =>
  step_of_instr (placeWord_pending s (encode i)) rfl (decode_encode hwf)

/-! ### The bytes of reads -/

/-- A read of an offset at which a byte stands returns it, running or halted. -/
theorem exec_rd8_of_regByte {off b : Byte} {s : State} (h : s.regByte off = some b) :
    exec (.rd8 off) s = .next (returnByte b s) := by
  rw [exec_rd8, hostRead, h]

theorem regByte_raw (s : State) (i : Fin 16) : s.regByte (BitVec.ofNat 8 i.val) = some s.raw[i] :=
  congrArg s.regRead (regOf_raw i)

theorem regByte_seed (s : State) (j : Fin 16) : s.regByte (BitVec.ofNat 8 (0x10 + j.val)) = some s.seed[j] :=
  congrArg s.regRead (regOf_seed j)

theorem regByte_smp (s : State) (k : Fin 16) : s.regByte (BitVec.ofNat 8 (0x20 + k.val)) = some (smpByte s.smp k) :=
  congrArg s.regRead (regOf_smp k)

/-- Settles O23: each offset names its register, and the read returns that register's byte. -/
theorem readReturnsRegisterByte : Obligations.ReadReturnsRegisterByte := fun s =>
  ⟨fun i => exec_rd8_of_regByte (regByte_raw s i), fun j => exec_rd8_of_regByte (regByte_seed s j),
    fun k => exec_rd8_of_regByte (regByte_smp s k), exec_rd8_of_regByte rfl, exec_rd8_of_regByte rfl,
    exec_rd8_of_regByte rfl⟩

/-- The converter's shift, mask and truncation cut out the byte that the bus shows. -/
theorem beByte_eq_smpByte (v : Sample) (k : Fin 16) : beByte v k = smpByte v k := by
  have hmask : ∀ n : Nat, n &&& 255 = n % 256 := fun n => Nat.and_two_pow_sub_one_eq_mod n 8
  refine BitVec.eq_of_toNat_eq ?_
  simp [beByte, smpByte, hmask]

/-- Settles O14: the bus shows `smpByte` and the converter makes `beByte`. -/
theorem sampleReadsInConverterOrder : Obligations.SampleReadsInConverterOrder := fun s k => by
  rw [regByte_smp, beBytes_get, beByte_eq_smpByte]

/-! ### What the ports may change -/

/-- The state with the input ports showing `p`. -/
def State.withPorts (s : State) (p : Ports) : State := { s with ports := p }

/-- On `s` the stage does the same when the ports show `p` instead: the same fault, or the same state but for the ports. -/
def PortBlind (p : Ports) (f : Stage) (s : State) : Prop :=
  f (s.withPorts p) = (f s).map (·.withPorts p)

/-- The two port values agree on the port that a SAMPLE stage of kind k draws from (41_entropy_capture.md R106). -/
def SameDraw : Kind → Ports → Ports → Prop
  | .time, p, q => p.clkOk = q.clkOk ∧ p.clkNs = q.clkNs
  | .address, p, q => p.addrSrc = q.addrSrc

theorem thenStage_portBlind {p : Ports} {f g : Stage} {s : State} (hf : PortBlind p f s)
    (hg : ∀ t, PortBlind p g t) : PortBlind p (thenStage f g) s := by
  unfold PortBlind thenStage
  rw [hf]
  cases f s with
  | ok t => exact hg t
  | error c => rfl

theorem stageSample_portBlind {k : Kind} {p : Ports} {s : State} (h : SameDraw k p s.ports) :
    PortBlind p (stageSample k) s := by
  cases k with
  | time =>
    obtain ⟨hok, hns⟩ := h
    have hdraw : drawClock (s.withPorts p) = drawClock s := by simp [drawClock, State.withPorts, hok, hns]
    unfold PortBlind
    simp only [stageSample, hdraw]
    cases drawClock s <;> rfl
  | address =>
    have hdraw : drawAddr (s.withPorts p) = drawAddr s := congrArg (zextAddr s.params.addrW) h
    unfold PortBlind
    simp only [stageSample, hdraw]
    rfl

/-- A stage that needs one flag, and then only updates the state, reads no port. -/
theorem guarded_portBlind (b : StatusBit) {f : State → State} {p : Ports} {s : State}
    (hf : f (s.withPorts p) = (f s).withPorts p) :
    PortBlind p (fun s => if s.flag b then .ok (f s) else .error .noData) s := by
  have hflag : (s.withPorts p).flag b = s.flag b := rfl
  unfold PortBlind
  simp only [hflag, hf]
  cases s.flag b <;> rfl

theorem stageConvert_portBlind (p : Ports) (s : State) : PortBlind p stageConvert s :=
  guarded_portBlind .smpV rfl

theorem stagePermute_portBlind (p : Ports) (s : State) : PortBlind p stagePermute s :=
  guarded_portBlind .rawV rfl

theorem stageUnpermute_portBlind (p : Ports) (s : State) : PortBlind p stageUnpermute s :=
  guarded_portBlind .seedV rfl

theorem stageHandoff_portBlind (p : Ports) (s : State) : PortBlind p stageHandoff s :=
  guarded_portBlind .seedV rfl

theorem stageCapture_portBlind {k : Kind} {p : Ports} {s : State} (h : SameDraw k p s.ports) :
    PortBlind p (stageCapture k) s :=
  thenStage_portBlind (stageSample_portBlind h) (stageConvert_portBlind p)

theorem stageSeedgen_portBlind {k : Kind} {p : Ports} {s : State} (h : SameDraw k p s.ports) :
    PortBlind p (stageSeedgen k) s :=
  thenStage_portBlind (stageCapture_portBlind h) (stagePermute_portBlind p)

theorem stageCreate_portBlind {k : Kind} {p : Ports} {s : State} (h : SameDraw k p s.ports) :
    PortBlind p (stageCreate k) s :=
  thenStage_portBlind (stageSeedgen_portBlind h) (stageHandoff_portBlind p)

/-- A command without a SAMPLE stage runs no stage that reads a port (20_memory.md R65). -/
theorem stageOf_portBlind {c : Command} (h : hasSampleStage (commandInstr c) = false) (p : Ports) (s : State) :
    PortBlind p (stageOf c) s := by
  cases c with
  | nop => rfl
  | convert => exact stageConvert_portBlind p s
  | permute => exact stagePermute_portBlind p s
  | unpermute => exact stageUnpermute_portBlind p s
  | handoff => exact stageHandoff_portBlind p s
  | sample k | capture k | seedgen k | create k => cases h

/-- A command does the same under other port values when its stages do; its fault entry and the halted state read no port. -/
theorem runCommand_withPorts {p : Ports} {f : Stage} {s : State} (hf : PortBlind p f s) (d : Byte) :
    runCommand d f (s.withPorts p) = (runCommand d f s).withPorts p := by
  rcases runCommand_cases d f s with ⟨hh, hr⟩ | ⟨hh, t, ht, hr⟩ | ⟨hh, c, hc, hr⟩ <;> rw [hr]
  · exact runCommand_halted (s := s.withPorts p) hh d f
  · exact runCommand_ok hh (by rw [hf, ht]; rfl)
  · exact runCommand_error hh (by rw [hf, hc]; rfl)

theorem hostRead_withPorts (off : Byte) (p : Ports) (s : State) :
    hostRead off (s.withPorts p) = (hostRead off s).withPorts p := by
  have hbyte : (s.withPorts p).regByte off = s.regByte off := rfl
  have hhalted : (s.withPorts p).halted = s.halted := rfl
  unfold hostRead
  rw [hbyte, hhalted]
  cases s.regByte off with
  | some b => rfl
  | none => cases s.halted <;> rfl

theorem hostWrite_withPorts (off d : Byte) (p : Ports) (s : State) :
    hostWrite off d (s.withPorts p) = (hostWrite off d s).withPorts p := by
  have hhalted : (s.withPorts p).halted = s.halted := rfl
  unfold hostWrite
  rw [hhalted]
  cases s.halted with
  | true => rfl
  | false => cases regOf off <;> rfl

/-- The instruction does the same on `s` when the ports show `p` instead. -/
def ExecPortBlind (p : Ports) (i : Instr) (s : State) : Prop :=
  exec i (s.withPorts p) = onNext (·.withPorts p) (exec i s)

theorem exec_command_portBlind {c : Command} {p : Ports} {s : State} (h : PortBlind p (stageOf c) s) :
    ExecPortBlind p (commandInstr c) s := by
  unfold ExecPortBlind
  rw [exec_command, exec_command, runCommand_withPorts h]
  rfl

theorem exec_portBlind_of_noSample {i : Instr} (hwf : i.WellFormed) (hi : hasSampleStage i = false) (p : Ports)
    (s : State) : ExecPortBlind p i s := by
  rcases instr_cases i with ⟨off, rfl⟩ | ⟨off, d, rfl, hoff⟩ | ⟨d, rfl⟩ | ⟨c, rfl⟩
  · exact congrArg Host.Outcome.next (hostRead_withPorts off p s)
  · unfold ExecPortBlind
    rw [exec_wr8 hoff, exec_wr8 hoff, hostWrite_withPorts]
    rfl
  · exact absurd rfl hwf
  · exact exec_command_portBlind (stageOf_portBlind hi p s)

/-- The commands with a SAMPLE stage of kind k depend on no port but the one that the stage draws from. -/
theorem exec_portBlind_of_sameDraw {k : Kind} {p : Ports} {s : State} (h : SameDraw k p s.ports) :
    ∀ i ∈ [Instr.sample k, .capture k, .seedgen k, .create k], ExecPortBlind p i s := by
  simp only [List.forall_mem_cons]
  exact ⟨exec_command_portBlind (c := .sample k) (stageSample_portBlind h),
    exec_command_portBlind (c := .capture k) (stageCapture_portBlind h),
    exec_command_portBlind (c := .seedgen k) (stageSeedgen_portBlind h),
    exec_command_portBlind (c := .create k) (stageCreate_portBlind h), nofun⟩

/-- Settles O53: an instruction without a SAMPLE stage reads no port, and one with it reads only its own kind's. -/
theorem portsAreReadOnlyBySample : Obligations.PortsAreReadOnlyBySample := fun s p =>
  ⟨fun _ hwf hi => exec_portBlind_of_noSample hwf hi p s,
    fun haddr => exec_portBlind_of_sameDraw (k := .address) haddr,
    fun hok hns => exec_portBlind_of_sameDraw (k := .time) ⟨hok, hns⟩⟩

end Sys2Proof.Machine

/-! PROOFS, 30_encoding.md. Every word by its fields and what it decodes to, the command bytes that are illegal, and the bytes
that the assembler takes; then the obligations. -/

namespace Sys2Proof

/-! ### Words by their fields -/

/-- Every word is a read, a write of an offset other than CMD, the write of a command's byte to CMD, or the write of a byte that
encodes no command, and decodes accordingly (30_encoding.md R75). -/
theorem decode_cases (w : TWord) :
    (∃ off d, w = formatT 0#1 off d ∧ decode w = .instr (.rd8 off)) ∨
    (∃ off d, off ≠ cmdOffset ∧ w = formatT 1#1 off d ∧ decode w = .instr (.wr8 off d)) ∨
    (∃ c, w = commandWord (commandByte c) ∧ decode w = .instr (commandInstr c)) ∨
    (∃ d, decodeCommand d = none ∧ w = commandWord d ∧ decode w = .illegalCommand d) := by
  have hfields := formatT_fields w
  generalize w.extractLsb' 8 8 = off, w.extractLsb' 0 8 = d at hfields
  cases hw : w.getLsbD 16 <;> rw [hw] at hfields <;> subst hfields
  · exact .inl ⟨off, d, rfl, decode_read off d⟩
  · by_cases hoff : off = cmdOffset
    · subst hoff
      cases hd : decodeCommand d with
      | none => exact .inr (.inr (.inr ⟨d, hd, rfl, (decode_command d).trans (by rw [hd])⟩))
      | some c =>
        obtain rfl := commandByte_of_decodeCommand hd
        exact .inr (.inr (.inl ⟨c, rfl, (decode_command _).trans (by rw [hd])⟩))
    · exact .inr (.inl ⟨off, d, hoff, rfl, decode_write hoff d⟩)

/-- The mask of a read's fields W and OFF clears its DATA (30_encoding.md R71). -/
theorem formatT_and_dataMask (off d : Byte) : formatT 0#1 off d &&& 0x1FF00#17 = formatT 0#1 off 0#8 := by
  refine BitVec.eq_of_getLsbD_eq fun i hi => ?_
  simp only [formatT, BitVec.getLsbD_and, BitVec.getLsbD_append]
  interval_cases i <;> simp

theorem commandInstr_wellFormed (c : Command) : (commandInstr c).WellFormed := by cases c <;> trivial

/-- Settles O1: `decode_encode`, by the shape of the instruction. -/
theorem decodeInvertsEncode : Obligations.DecodeInvertsEncode := fun _ => decode_encode

/-- Settles O2: by `decode_cases`, the word's own fields are those that the encoder writes, but for a read's DATA. -/
theorem decodedWordReencodes : Obligations.DecodedWordReencodes := by
  intro w i h
  rcases decode_cases w with ⟨off, d, rfl, hw⟩ | ⟨off, d, hoff, rfl, hw⟩ | ⟨c, rfl, hw⟩ | ⟨d, _, _, hw⟩ <;>
    rw [hw] at h <;> cases h
  · refine ⟨trivial, ?_⟩
    rw [formatT_w, formatT_and_dataMask]
    rfl
  · refine ⟨hoff, ?_⟩
    rw [formatT_w]
    rfl
  · refine ⟨commandInstr_wellFormed c, ?_⟩
    rw [encode_command, commandWord, formatT_w]
    rfl

/-! ### Illegal command bytes -/

/-- The words rejected by name are the writes to CMD of a byte that encodes no command. -/
theorem decode_illegalCommand_iff {w : TWord} {d : Byte} :
    decode w = .illegalCommand d ↔ w = commandWord d ∧ decodeCommand d = none := by
  constructor
  · intro h
    rcases decode_cases w with ⟨_, _, _, hw⟩ | ⟨_, _, _, _, hw⟩ | ⟨_, _, hw⟩ | ⟨b, hb, hword, hw⟩ <;>
      rw [hw] at h <;> cases h
    exact ⟨hword, hb⟩
  · rintro ⟨rfl, hd⟩
    rw [decode_command, hd]

/-- The three classes of illegal bytes, over the 256 bytes (30_encoding.md R77). -/
theorem decodeCommand_eq_none_iff : ∀ d : Byte, decodeCommand d = none ↔
    d.extractLsb' 5 3 ≠ 0#3 ∨ 0x9 ≤ (d.extractLsb' 0 4).toNat ∨
      (d.getLsbD 4 = true ∧ (d.extractLsb' 0 4).toNat ∈ [0x0, 0x2, 0x3, 0x4, 0x7]) := by
  decide

/-- Settles O3: the word is the byte's write to CMD, and the byte is of one of the three classes. -/
theorem illegalCommandWordsExactly : Obligations.IllegalCommandWordsExactly := fun _ d =>
  decode_illegalCommand_iff.trans (and_congr_right fun _ => decodeCommand_eq_none_iff d)

/-- Settles O4: each word is the encoding of its instruction, and the last writes the illegal byte 0x28 to CMD. -/
theorem specWordsDecode : Obligations.SpecWordsDecode :=
  ⟨decode_encode (i := .rd8 0x2F#8) trivial, decode_encode (i := .wr8 0x05#8 0xA7#8) (by decide),
    decode_encode (i := .nop) trivial, decode_encode (i := .sample .address) trivial,
    decode_encode (i := .convert) trivial, decode_encode (i := .permute) trivial,
    decode_encode (i := .unpermute) trivial, decode_encode (i := .capture .time) trivial,
    decode_encode (i := .seedgen .address) trivial, decode_encode (i := .handoff) trivial,
    decode_encode (i := .create .time) trivial, decode_illegalCommand_iff.mpr ⟨rfl, by decide⟩⟩

/-! ### Pseudo-instructions -/

theorem map_decode_singleton {i : Instr} (hwf : i.WellFormed) : [encode i].map decode = [.instr i] :=
  congrArg (fun x => [x]) (decode_encode hwf)

/-- A row of reads decodes to the reads of its sixteen offsets in order. -/
theorem map_decode_readRow (base : Byte) :
    (readRow base).map decode = allLanes.map fun i => .instr (.rd8 (base + BitVec.ofNat 8 i.val)) := by
  rw [readRow, List.map_map]
  exact List.map_congr_left fun i _ => decode_encode (i := .rd8 _) trivial

theorem allLanes_getElem? (i : Fin 16) : allLanes[i.val]? = some i := by revert i; decide

/-- Word i of `wrraw` is the write of byte i at offset i. -/
theorem expandPseudo_wrraw_getElem? (b : Bytes16) (i : Fin 16) :
    (expandPseudo (.wrraw b))[i.val]? = some (encode (.wr8 (BitVec.ofNat 8 i.val) b[i])) := by
  rw [expandPseudo, List.getElem?_map, allLanes_getElem?]
  rfl

theorem rawOffset_ne_cmdOffset : ∀ i : Fin 16, BitVec.ofNat 8 i.val ≠ cmdOffset := by decide

/-- Settles O5: each word is the encoding of its statement, which is what it decodes to. -/
theorem pseudoInstructionsExpand : Obligations.PseudoInstructionsExpand := by
  refine ⟨map_decode_singleton trivial, map_decode_singleton trivial, map_decode_singleton trivial,
    map_decode_singleton trivial, map_decode_singleton trivial, fun _ => rfl, fun b => ⟨rfl, fun i => ?_⟩,
    map_decode_readRow _, map_decode_readRow _, map_decode_readRow _, map_decode_singleton trivial⟩
  rw [expandPseudo_wrraw_getElem?]
  exact congrArg some (decode_encode (rawOffset_ne_cmdOffset i))

end Sys2Proof

namespace Sys2Proof.Machine

/-! ### Statements -/

theorem asmByte_toNat (b : Byte) : asmByte b.toNat = some b := by
  rw [asmByte, if_pos b.isLt, BitVec.ofNat_toNat, BitVec.setWidth_eq]

theorem asmByte_of_le {n : Nat} (h : 256 ≤ n) : asmByte n = none := if_neg h.not_gt

theorem assembleStmt_rd8 (n : Nat) :
    assembleStmt .rd8 [.num n] = (asmByte n).map fun off => [formatT 0#1 off 0#8] := rfl

theorem assembleStmt_wr8 (n m : Nat) :
    assembleStmt .wr8 [.num n, .num m] = (asmByte n).bind fun off => (asmByte m).map fun d => [formatT 1#1 off d] := rfl

/-- The operands of `rd8` and `wr8` are refused outside 0 to 255, `wr8` whatever its other operand is. -/
theorem assembleStmt_refuses_of_le {n : Nat} (h : 256 ≤ n) :
    assembleStmt .rd8 [.num n] = none ∧
      ∀ m : Nat, assembleStmt .wr8 [.num n, .num m] = none ∧ assembleStmt .wr8 [.num m, .num n] = none := by
  have hn := asmByte_of_le h
  refine ⟨by rw [assembleStmt_rd8, hn]; rfl, fun m => ⟨by rw [assembleStmt_wr8, hn]; rfl, ?_⟩⟩
  rw [assembleStmt_wr8, hn]
  cases asmByte m <;> rfl

/-- Settles O6: bytes are the numbers that are taken, and the other statements are fixed words or fixed refusals. -/
theorem statementsAssemble : Obligations.StatementsAssemble := by
  refine ⟨fun off => ?_, fun off d => ?_, rfl, rfl, rfl, rfl, rfl, rfl, rfl, rfl, rfl, rfl, rfl, rfl, rfl,
    fun _ h => assembleStmt_refuses_of_le h, ?_, ?_⟩
  · rw [assembleStmt_rd8, asmByte_toNat]
    rfl
  · rw [assembleStmt_wr8, asmByte_toNat, asmByte_toNat]
    rfl
  · decide
  · simp only [List.forall_mem_cons]
    exact ⟨fun _ => rfl, fun _ => rfl, fun _ => rfl, fun _ => rfl, fun _ => rfl, nofun⟩

end Sys2Proof.Machine

/-! PROOFS, 40_host_bus.md. What an illegal read and a halted SFE's command do, as equations; then the obligations. -/

namespace Sys2Proof.Machine

/-! ### Steps -/

/-- Settles O21: whichever of its cases a step is, `step_cases` names the next state. -/
theorem stepAlwaysAnswers : Obligations.StepAlwaysAnswers := by
  intro s
  rcases step_cases s with ⟨_, h⟩ | ⟨_, _, _, _, h⟩ | ⟨_, _, _, _, _, _, _, _, _, h⟩ | ⟨_, _, _, _, _, _, _, h⟩ <;>
    exact ⟨_, h⟩

/-! ### Illegal reads -/

/-- A running SFE takes ILLEGAL_READ for an offset at which no byte stands, and the read returns 0x00. -/
theorem exec_illegalRead_of_running {off : Byte} {s : State} (hr : Running s) (h : s.regByte off = none) :
    exec (.rd8 off) s = .next (returnByte 0x00#8 (takeFault .illegalRead off s)) := by
  have hh : s.halted = false := hr
  simp [exec_rd8, hostRead, h, hh]

/-- In a halted SFE such a read returns 0x00 and does nothing else. -/
theorem exec_illegalRead_of_halted {off : Byte} {s : State} (hs : Halted s) (h : s.regByte off = none) :
    exec (.rd8 off) s = .next (returnByte 0x00#8 s) := by
  have hh : s.halted = true := hs
  simp [exec_rd8, hostRead, h, hh]

/-- Settles O24: by `regByte_none`, no byte stands at CMD and at the reserved offsets. -/
theorem illegalReadFaults : Obligations.IllegalReadFaults := fun s off hoff =>
  have hnone : s.regByte off = none := (regByte_none s off).mpr hoff
  ⟨fun hr => exec_illegalRead_of_running hr hnone, fun hs => exec_illegalRead_of_halted hs hnone⟩

/-! ### NOP -/

theorem exec_command_of_halted {s : State} (h : s.halted = true) (c : Command) :
    exec (commandInstr c) s = .next s := by
  rw [exec_command, runCommand_halted h]

/-- Settles O28: a halted SFE ignores the command, and in a running one its stages leave the state they met. -/
theorem nopChangesNothing : Obligations.NopChangesNothing := by
  intro s
  cases h : s.halted with
  | true => exact exec_command_of_halted h .nop
  | false => exact exec_command_ok (c := .nop) h rfl

end Sys2Proof.Machine

/-! PROOFS, 41_entropy_capture.md. The converter, the networks and the address extension as functions of their input, and what
each command leaves, as equations; then the obligations. -/

namespace Sys2Proof.Machine

/-! ### The converter -/

theorem beBytes_eq_extract (v : Sample) (k : Fin 16) : (beBytes v)[k] = v.extractLsb' (120 - 8 * k.val) 8 :=
  (beBytes_get v k).trans (beByte_eq_smpByte v k)

/-- Bit i of a sample is bit `i % 8` of the byte `15 - i / 8`. -/
theorem getLsbD_eq_beBytes (v : Sample) {i : Nat} (hi : i < 128) :
    v.getLsbD i = ((beBytes v)[(⟨15 - i / 8, by omega⟩ : Fin 16)]).getLsbD (i % 8) := by
  have hpos : 120 - 8 * (15 - i / 8) + i % 8 = i := by omega
  rw [beBytes_eq_extract, BitVec.getLsbD_extractLsb', hpos, decide_eq_true (Nat.mod_lt i (by decide)), Bool.true_and]

theorem beBytes_injective : Function.Injective beBytes := fun v w h =>
  BitVec.eq_of_getLsbD_eq fun i hi => by rw [getLsbD_eq_beBytes v hi, getLsbD_eq_beBytes w hi, h]

/-- The byte at k of a concatenation is its k-th piece: the pieces below it are skipped, the pieces above it are cut off. -/
theorem ofBeBytes_extract (b : Bytes16) (k : Fin 16) : (ofBeBytes b).extractLsb' (120 - 8 * k.val) 8 = b[k] := by
  unfold ofBeBytes
  fin_cases k <;>
    simp (disch := decide) only [BitVec.extractLsb'_append_eq_of_le, BitVec.extractLsb'_append_eq_of_add_le] <;>
    exact BitVec.extractLsb'_eq_self

theorem beBytes_ofBeBytes (b : Bytes16) : beBytes (ofBeBytes b) = b :=
  lanes_ext fun k => (beBytes_eq_extract _ k).trans (ofBeBytes_extract b k)

/-- The converter is injective, so its right inverse is its inverse. -/
theorem ofBeBytes_beBytes (v : Sample) : ofBeBytes (beBytes v) = v := beBytes_injective (beBytes_ofBeBytes (beBytes v))

/-- Settles O7: `beBytes_eq_extract`, and the concatenation is the inverse from both sides. -/
theorem converterIsBigEndianBijection : Obligations.ConverterIsBigEndianBijection :=
  ⟨beBytes_eq_extract, ofBeBytes_beBytes, beBytes_ofBeBytes⟩

/-- A mask whose low eight bits are ones does not show in the low byte. -/
theorem setWidth_and_of_low_ones (x : Sample) {m : Sample} (hm : m.setWidth 8 = BitVec.allOnes 8) :
    (x &&& m).setWidth 8 = x.setWidth 8 := by
  rw [BitVec.setWidth_and, hm, BitVec.and_allOnes]

/-- Settles O8: neither mask shows in the low byte, and `beByte` is the low byte under one of them. -/
theorem masksGiveTheSameBytes : Obligations.MasksGiveTheSameBytes := by
  intro v k
  have h8 (x : Sample) : (x &&& 0xFF#128).setWidth 8 = x.setWidth 8 := setWidth_and_of_low_ones x (by decide)
  have h32 (x : Sample) : (x &&& 0xFFFFFFFF#128).setWidth 8 = x.setWidth 8 := setWidth_and_of_low_ones x (by decide)
  exact ⟨(h32 _).trans (h8 _).symm, h8 _, (beBytes_get v k).trans ((h8 _).trans (h32 _).symm)⟩

/-! ### The networks -/

theorem unshuffle_get_perm (p : Perm) (x : Bytes16) (j : Fin 16) : (unshuffle p x)[p.map[j]] = x[j] := by
  simp only [unshuffle_get, permInv_perm]

theorem unshuffle_shuffle (p : Perm) (x : Bytes16) : unshuffle p (shuffle p x) = x :=
  lanes_ext fun i => by simp only [unshuffle_get, shuffle_get, perm_permInv]

theorem shuffle_unshuffle (p : Perm) (x : Bytes16) : shuffle p (unshuffle p x) = x :=
  lanes_ext fun j => (shuffle_get p _ j).trans (unshuffle_get_perm p x j)

theorem shuffle_injective (p : Perm) : Function.Injective (shuffle p) :=
  Function.LeftInverse.injective (unshuffle_shuffle p)

/-- The network reads the array at the positions in the order of PERM, which lists each once. -/
theorem shuffle_toList_perm (p : Perm) (x : Bytes16) : (shuffle p x).toList.Perm x.toList := by
  have hpos : (allLanes.map fun j => p.map[j]).Perm allLanes := map_allLanes_perm _ fun i j => p.injective i j
  rw [shuffle, toList_lanes, toList_eq_map x]
  simpa only [List.map_map, Function.comp_def] using hpos.map fun i => x[i]

/-- The array is what the network makes of the inverse network's output. -/
theorem unshuffle_toList_perm (p : Perm) (x : Bytes16) : (unshuffle p x).toList.Perm x.toList := by
  have h := shuffle_toList_perm p (unshuffle p x)
  rw [shuffle_unshuffle] at h
  exact h.symm

/-- Settles O9: the networks are inverse by lanes, and the count of a byte is kept by the network. -/
theorem shuffleRoundTrips : Obligations.ShuffleRoundTrips := by
  intro p x
  have hcount : ∀ i : Fin 16, (lanes fun i => BitVec.ofNat 8 i.val).toList.count (BitVec.ofNat 8 i.val) = 1 := by decide
  refine ⟨unshuffle_shuffle p x, shuffle_unshuffle p x, fun j => ?_, fun i => ?_⟩
  · rw [shuffle_get, lanes_get]
  · rw [(shuffle_toList_perm p _).count_eq, hcount]

/-- Settles O10: PERM takes every position, once. -/
theorem networksMoveLanes : Obligations.NetworksMoveLanes := by
  intro p x
  refine ⟨shuffle_get p x, fun i => ?_, unshuffle_get_perm p x, shuffle_toList_perm p x, unshuffle_toList_perm p x⟩
  obtain ⟨j, hj⟩ := perm_surjective p i
  exact ⟨j, hj, fun j' hj' => p.injective j' j (hj'.trans hj.symm)⟩

/-- Settles O12: the converter and the network are injective. -/
theorem seedsAreEqualIffSamplesAre : Obligations.SeedsAreEqualIffSamplesAre := fun p _ _ =>
  ((shuffle_injective p).comp beBytes_injective).eq_iff

/-- `shuffle_get` with the indexes as numbers. -/
theorem shuffle_getElem? {p : Perm} {j i : Fin 16} (h : p.map[j] = i) (x : Bytes16) :
    (shuffle p x)[j.val]? = x[i.val]? := by
  rw [Vector.getElem?_eq_getElem j.isLt, Vector.getElem?_eq_getElem i.isLt, ← h]
  exact congrArg some (shuffle_get p x j)

/-- Settles O11: PERM_DEFAULT lists 15 - m at 2m and m at 2m + 1. -/
theorem defaultScattersLowBytes : Obligations.DefaultScattersLowBytes := by
  intro x m
  have heven : ∀ m : Fin 8, permDefault.map[(⟨2 * m.val, by omega⟩ : Fin 16)] = ⟨15 - m.val, by omega⟩ := by decide
  have hodd : ∀ m : Fin 8, permDefault.map[(⟨2 * m.val + 1, by omega⟩ : Fin 16)] = ⟨m.val, by omega⟩ := by decide
  exact ⟨shuffle_getElem? (heven m) x, shuffle_getElem? (hodd m) x⟩

/-! ### The address -/

theorem zextAddr_getLsbD {n : Nat} (hn : n ≤ 128) (a : Sample) (i : Nat) :
    (zextAddr n a).getLsbD i = (decide (i < n) && a.getLsbD i) := by
  have hlt : i < n → i < 128 := fun h => h.trans_le hn
  rw [zextAddr, BitVec.getLsbD_setWidth, BitVec.getLsbD_setWidth]
  by_cases h : i < n
  · simp [h, hlt h]
  · simp [h]

/-- Settles O13: ADDR_W is at most 128, so the extension loses no bit. -/
theorem addressIsZeroExtended : Obligations.AddressIsZeroExtended := fun s =>
  zextAddr_getLsbD s.params.addrW_legal.2 s.ports.addrSrc

/-! ### What the commands leave in a running SFE -/

theorem exec_sample {k : Kind} {s : State} (hr : Running s) (hk : CanSample k s) :
    exec (.sample k) s = .next (afterSample k s) :=
  exec_command_ok (c := .sample k) hr (stageSample_afterSample hk)

theorem exec_capture {k : Kind} {s : State} (hr : Running s) (hk : CanSample k s) :
    exec (.capture k) s = .next (afterCapture k s) :=
  exec_command_ok (c := .capture k) hr (stageCapture_afterCapture hk)

theorem exec_seedgen {k : Kind} {s : State} (hr : Running s) (hk : CanSample k s) :
    exec (.seedgen k) s = .next (afterSeedgen k s) :=
  exec_command_ok (c := .seedgen k) hr (stageSeedgen_afterSeedgen hk)

theorem exec_create {k : Kind} {s : State} (hr : Running s) (hk : CanSample k s) :
    exec (.create k) s = .next (afterCreate k s) :=
  exec_command_ok (c := .create k) hr (stageCreate_afterCreate hk)

theorem exec_permute {s : State} (hr : Running s) (hv : s.flag .rawV = true) :
    exec .permute s = .next { s.withFlag .seedV true with seed := shuffle s.params.perm s.raw } :=
  exec_command_ok (c := .permute) hr (stagePermute_ok.mpr ⟨hv, rfl⟩)

theorem exec_unpermute {s : State} (hr : Running s) (hv : s.flag .seedV = true) :
    exec .unpermute s = .next { s.withFlag .rawV true with raw := unshuffle s.params.perm s.seed } :=
  exec_command_ok (c := .unpermute) hr (stageUnpermute_ok.mpr ⟨hv, rfl⟩)

/-- No stage writes FAULT. -/
theorem stageOf_keeps_running {c : Command} {s t : State} (hr : Running s) (h : stageOf c s = .ok t) : Running t := by
  obtain ⟨_, hflag, _⟩ := stageOf_framed h
  exact (hflag .fault (by cases c <;> rfl)).trans hr

/-- A command that halts a running SFE took the fault of one of its stages. -/
theorem exec_command_halts {c : Command} {s u : State} (hr : Running s) (h : exec (commandInstr c) s = .next u)
    (hu : Halted u) : ∃ e, stageOf c s = .error e ∧ u = takeFault e (commandByte c) s := by
  cases hs : stageOf c s with
  | ok t =>
    rw [exec_command_ok hr hs] at h
    injection h with h
    rw [Halted, ← h, stageOf_keeps_running hr hs] at hu
    contradiction
  | error e =>
    rw [exec_command_error hr hs] at h
    injection h with h
    exact ⟨e, rfl, h.symm⟩

/-! ### Stages and their composites -/

/-- Settles O38: the inverse network undoes the network. -/
theorem unpermuteUndoesPermute : Obligations.UnpermuteUndoesPermute := by
  intro s hr hv
  have hperm := stagePermute_ok.mpr ⟨hv, rfl⟩
  have hrun := stageOf_keeps_running (c := .permute) hr hperm
  exact ⟨_, _, exec_permute hr hv, exec_unpermute hrun (by simp [State.flag]), unshuffle_shuffle _ _, rfl⟩

/-- Settles O41: each stage runs on what the one before left, which is a running SFE. -/
theorem compositesAreTheirStages : Obligations.CompositesAreTheirStages := by
  intro s k hr hk
  have hr1 : Running (afterSample k s) := stageOf_keeps_running (c := .sample k) hr (stageSample_afterSample hk)
  have hr2 : Running (afterCapture k s) := stageOf_keeps_running (c := .capture k) hr (stageCapture_afterCapture hk)
  have hr3 : Running (afterSeedgen k s) := stageOf_keeps_running (c := .seedgen k) hr (stageSeedgen_afterSeedgen hk)
  exact ⟨_, _, _, _, exec_sample hr hk, exec_command_ok (c := .convert) hr1 (stageConvert_afterSample k s),
    exec_command_ok (c := .permute) hr2 (stagePermute_afterCapture k s),
    exec_command_ok (c := .handoff) hr3 (stageHandoff_afterSeedgen k s),
    exec_capture hr hk, exec_seedgen hr hk, exec_create hr hk⟩

/-- Settles O50: a composite that halts took a stage's fault, and only its SAMPLE stage raises one. -/
theorem compositesOnlyFaultOnClock : Obligations.CompositesOnlyFaultOnClock := by
  intro s u k i hr hi h hu
  have clock : ∀ c, (∀ e, stageOf c s = .error e → k = .time ∧ s.ports.clkOk = false ∧ e = .clockUnavailable) →
      exec (commandInstr c) s = .next u → k = .time ∧ s.ports.clkOk = false ∧ u.cause = 0x01#8 := by
    intro c hc h
    obtain ⟨e, he, rfl⟩ := exec_command_halts hr h hu
    obtain ⟨hk, hclk, rfl⟩ := hc e he
    exact ⟨hk, hclk, rfl⟩
  rcases hi with rfl | rfl | rfl
  · exact clock (.capture k) (fun _ => stageCapture_error.mp) h
  · exact clock (.seedgen k) (fun _ => stageSeedgen_error.mp) h
  · exact clock (.create k) (fun _ => stageCreate_error.mp) h

/-! ### The results of the commands, field by field -/

/-- Settles O29: `flagsSampled_time_byte` is the STATUS it leaves. -/
theorem sampleLatchesClock : Obligations.SampleLatchesClock := by
  intro s hr hclk
  rw [exec_sample hr fun _ => hclk, ← flagsSampled_time_byte]
  rfl

/-- Settles O30: no clock is asked, and `flagsSampled_address_byte` is the STATUS it leaves. -/
theorem sampleLatchesAddress : Obligations.SampleLatchesAddress := by
  intro s hr
  rw [exec_sample (k := .address) hr nofun, ← flagsSampled_address_byte]
  rfl

/-- Settles O32: the converter's bytes are the slices. -/
theorem convertFillsRaw : Obligations.ConvertFillsRaw := by
  intro s hr hv
  have hraw : beBytes s.smp = lanes fun k => s.smp.extractLsb' (120 - 8 * k.val) 8 :=
    lanes_ext fun k => by rw [beBytes_eq_extract, lanes_get]
  rw [← hraw]
  exact exec_command_ok (c := .convert) hr (stageConvert_ok.mpr ⟨hv, rfl⟩)

/-- Settles O33: `shuffle` is that gather, and setting SEED_V is the OR with its mask. -/
theorem permuteFillsSeed : Obligations.PermuteFillsSeed := fun _ hr hv => exec_permute hr hv

/-- Settles O34: the array is the inverse network's output. -/
theorem unpermuteRecoversRaw : Obligations.UnpermuteRecoversRaw := fun s hr hv =>
  ⟨unshuffle s.params.perm s.seed, unshuffle_get_perm _ _, exec_unpermute hr hv⟩

theorem afterCapture_time_byte (s : State) : (afterCapture .time s).status = (s.status ||| 0x03#8) &&& 0xDF#8 := by
  have key : ∀ st : Byte, setBit ((st ||| 0x01#8) &&& 0xDF#8) .rawV true = (st ||| 0x03#8) &&& 0xDF#8 := by decide
  exact key s.status

theorem afterCapture_address_byte (s : State) : (afterCapture .address s).status = s.status ||| 0x33#8 := by
  have key : ∀ st : Byte, setBit (st ||| 0x31#8) .rawV true = st ||| 0x33#8 := by decide
  exact (congrArg (setBit · .rawV true) (flagsSampled_address_byte s)).trans (key s.status)

theorem afterSeedgen_time_byte (s : State) : (afterSeedgen .time s).status = (s.status ||| 0x07#8) &&& 0xDF#8 := by
  have key : ∀ st : Byte, setBit ((st ||| 0x03#8) &&& 0xDF#8) .seedV true = (st ||| 0x07#8) &&& 0xDF#8 := by decide
  exact (congrArg (setBit · .seedV true) (afterCapture_time_byte s)).trans (key s.status)

theorem afterSeedgen_address_byte (s : State) : (afterSeedgen .address s).status = s.status ||| 0x37#8 := by
  have key : ∀ st : Byte, setBit (st ||| 0x33#8) .seedV true = st ||| 0x37#8 := by decide
  exact (congrArg (setBit · .seedV true) (afterCapture_address_byte s)).trans (key s.status)

/-- Settles O35: CAPTURE leaves `afterCapture`, whose STATUS is the byte written out. -/
theorem captureResult : Obligations.CaptureResult := by
  intro s hr
  constructor
  · intro hclk
    rw [exec_capture hr fun _ => hclk, ← afterCapture_time_byte]
    rfl
  · rw [exec_capture (k := .address) hr nofun, ← afterCapture_address_byte]
    rfl

/-- Settles O36: SEEDGEN leaves `afterSeedgen`, whose STATUS is the byte written out. -/
theorem seedgenResult : Obligations.SeedgenResult := by
  intro s hr
  constructor
  · intro hclk
    rw [exec_seedgen hr fun _ => hclk, ← afterSeedgen_time_byte]
    rfl
  · rw [exec_seedgen (k := .address) hr nofun, ← afterSeedgen_address_byte]
    rfl

end Sys2Proof.Machine

/-! PROOFS, 42_generator_factory.md. The all-zero array under the network and what an event adds to the generators; then the
obligations, from `createResult` and `handoffEmitsAndZeroizes`. -/

namespace Sys2Proof.Machine

/-! ### CREATE -/

/-- Settles O43: the state that `createResult` gives names no register and no lane of the state before. -/
theorem createForgetsOldData : Obligations.CreateForgetsOldData := by
  intro s k a r q l b hr hk
  obtain ⟨htime, haddress⟩ := createResult s hr
  obtain ⟨htime', haddress'⟩ := createResult { s with smp := a, raw := r, seed := q, engSeed := l, engSeedStb := b } hr
  cases k with
  | time => exact (htime' (hk rfl)).trans (htime (hk rfl)).symm
  | address => exact haddress'.trans haddress.symm

/-! ### Generators -/

/-- An event on the port creates one generator, seeded with the bytes on the lanes. -/
theorem generators_engineLatch (e : Config.Engine) {s : State} (h : s.engSeedStb = true) :
    generators e (engineLatch s) = generators e s ++ [e.seedFromBytes s.engSeed] := by
  simp [generators, h]

/-- A HANDOFF creates one generator, seeded with SEED as it was. -/
theorem exec_handoff_generators (e : Config.Engine) {s : State} (hr : Running s) (hv : s.flag .seedV = true) :
    ∃ u, exec .handoff s = .next u ∧ generators e (engineLatch u) = generators e s ++ [e.seedFromBytes s.seed] :=
  ⟨_, handoffEmitsAndZeroizes s hr hv, generators_engineLatch e rfl⟩

/-- Settles O44: `exec_handoff_generators` for each SFE. -/
theorem equalSeedsStartEqualGenerators : Obligations.EqualSeedsStartEqualGenerators := by
  intro e s t hrs hrt hvs hvt hseed
  obtain ⟨u, hu, hgu⟩ := exec_handoff_generators e hrs hvs
  obtain ⟨v, hv, hgv⟩ := exec_handoff_generators e hrt hvt
  rw [← hseed] at hgv
  exact ⟨u, v, hu, hv, hgu, hgv⟩

/-! ### The all-zero seed -/

theorem shuffle_zeros16 (p : Perm) : shuffle p zeros16 = zeros16 :=
  lanes_ext fun j => by rw [shuffle_get, zeros16_get, zeros16_get]

/-- Settles O45: PERMUTE leaves a running SFE with a valid SEED, which HANDOFF emits; it is zero by `shuffle_zeros16`. -/
theorem zeroSeedIsDelivered : Obligations.ZeroSeedIsDelivered := by
  intro s hr hv hraw
  have hrun := stageOf_keeps_running (c := .permute) hr (stagePermute_ok.mpr ⟨hv, rfl⟩)
  refine ⟨_, _, exec_permute hr hv, handoffEmitsAndZeroizes _ hrun (by simp [State.flag]), ?_⟩
  rw [hraw, shuffle_zeros16, State.withFlag_out]

end Sys2Proof.Machine

/-! PROOFS, 60_exceptions.md. When an instruction takes a fault and what an illegal write does, as equations; then the
obligations. -/

namespace Sys2Proof.Machine

/-! ### The halted state -/

/-- Settles O46: of what an instruction can leave, a halted SFE admits the state it met and a returned byte, which only a read
returns. -/
theorem haltedIgnoresAllButReads : Obligations.HaltedIgnoresAllButReads := by
  intro s i hs hi
  obtain ⟨u, h⟩ := exec_answers i s
  have not_running : s.halted ≠ false := by simp [State.halted, hs]
  rcases exec_outcomes h with rfl | ⟨off, _, rfl, _⟩ | ⟨hr, _⟩ | ⟨hr, _⟩ | ⟨hr, _⟩
  · exact h
  · exact absurd rfl (hi off)
  all_goals exact absurd hr not_running

/-! ### Fault entry -/

/-- An instruction that halts a running SFE took a fault of the table of 60_exceptions.md R151, which a read joins with the byte
0x00: everything else it can leave is running. -/
theorem exec_halts {i : Instr} {s u : State} (hr : Running s) (h : exec i s = .next u) (hu : Halted u) :
    ∃ c d, FaultRecord (causeCode c) d ∧
      (u = takeFault c d s ∨ ∃ off, i = .rd8 off ∧ u = returnByte 0x00#8 (takeFault c d s)) := by
  have still_running : ¬ Running u := by simp [hu]
  rcases exec_outcomes h with rfl | ⟨_, _, _, rfl⟩ | ⟨_, _, _, _, _, _, rfl⟩ | ⟨_, _, _, ht⟩ | ⟨_, hfault⟩
  · exact absurd hr still_running
  · exact absurd hr still_running
  · exact absurd (by simpa [Running, State.flag] using hr) still_running
  · exact absurd (stageOf_keeps_running hr ht) still_running
  · exact hfault

/-- Settles O49: by `exec_halts`, `takeFault` and the returned byte are all that changes. -/
theorem faultsArePrecise : Obligations.FaultsArePrecise := by
  intro i s u hr h hu
  obtain ⟨c, d, hrec, rfl | ⟨off, hi, rfl⟩⟩ := exec_halts hr h hu
  · exact ⟨rfl, hrec, .inl rfl⟩
  · exact ⟨rfl, hrec, .inr ⟨off, hi, rfl⟩⟩

/-! ### The faults, one by one -/

/-- A running SFE takes ILLEGAL_WRITE for an offset that is neither CMD nor of the RAW row. -/
theorem exec_illegalWrite_of_running {off : Byte} {s : State} (hr : Running s) (hoff : off ≠ cmdOffset)
    (hraw : 0x10 ≤ off.toNat) (d : Byte) : exec (.wr8 off d) s = .next (takeFault .illegalWrite off s) := by
  rw [exec_wr8 hoff]
  rcases hostWrite_cases off d s with ⟨hh, _⟩ | ⟨_, i, hi, _⟩ | ⟨_, _, h⟩
  · exact absurd hh (by simp [State.halted, hr])
  · exact absurd ((regOf_isRaw off).mp ⟨i, hi⟩) (by omega)
  · rw [h]

/-- Settles O26: the fault entry sets FAULT by the OR with its mask. -/
theorem illegalWriteFaults : Obligations.IllegalWriteFaults := fun _ _ d hr hraw hoff =>
  exec_illegalWrite_of_running hr hoff hraw d

/-- Settles O31: the SAMPLE stage of each of the four commands fails, and the command's byte is recorded. -/
theorem clockUnavailableFaults : Obligations.ClockUnavailableFaults := fun _ hr hclk =>
  ⟨exec_command_error (c := .sample .time) hr (stageSample_error.mpr ⟨rfl, hclk, rfl⟩),
    exec_command_error (c := .capture .time) hr (stageCapture_error.mpr ⟨rfl, hclk, rfl⟩),
    exec_command_error (c := .seedgen .time) hr (stageSeedgen_error.mpr ⟨rfl, hclk, rfl⟩),
    exec_command_error (c := .create .time) hr (stageCreate_error.mpr ⟨rfl, hclk, rfl⟩)⟩

/-- Settles O37: each stage fails on its own valid bit, and the command's byte is recorded. -/
theorem invalidInputFaults : Obligations.InvalidInputFaults := fun _ hr =>
  ⟨fun hv => exec_command_error (c := .convert) hr (stageConvert_error.mpr ⟨hv, rfl⟩),
    fun hv => exec_command_error (c := .permute) hr (stagePermute_error.mpr ⟨hv, rfl⟩),
    fun hv => ⟨exec_command_error (c := .unpermute) hr (stageUnpermute_error.mpr ⟨hv, rfl⟩),
      exec_command_error (c := .handoff) hr (stageHandoff_error.mpr ⟨hv, rfl⟩)⟩⟩

end Sys2Proof.Machine

/-! PROOFS, 70_reset_and_hazards.md. What the bus shows of zeroized registers and what a HANDOFF stage leaves of the seed; then the
obligation. -/

namespace Sys2Proof.Machine

theorem smpByte_zero (k : Fin 16) : smpByte 0#128 k = 0#8 := BitVec.extractLsb'_zero

/-- A state whose three data registers are zero shows 0 at every offset of their rows. -/
theorem regByte_of_zero_rows {u : State} (hsmp : u.smp = 0#128) (hraw : u.raw = zeros16) (hseed : u.seed = zeros16)
    {off : Byte} (hoff : off.toNat < 0x30) : u.regByte off = some 0#8 := by
  by_cases hr : off.toNat < 0x10
  · obtain ⟨i, hi⟩ := (regOf_isRaw off).mpr hr
    rw [State.regByte, hi, State.regRead, hraw, zeros16_get]
  by_cases hs : off.toNat < 0x20
  · obtain ⟨j, hj⟩ := (regOf_isSeed off).mpr ⟨not_lt.mp hr, hs⟩
    rw [State.regByte, hj, State.regRead, hseed, zeros16_get]
  · obtain ⟨k, hk⟩ := (regOf_isSmp off).mpr ⟨not_lt.mp hs, hoff⟩
    rw [State.regByte, hk, State.regRead, hsmp, smpByte_zero]

/-- No byte of a seed can be read, and no register is marked valid. -/
def SeedGone (u : State) : Prop :=
  (∀ off : Byte, off.toNat < 0x30 → u.regByte off = some 0x00#8) ∧
    u.flag .smpV = false ∧ u.flag .rawV = false ∧ u.flag .seedV = false

/-- A HANDOFF stage, whatever state it meets, leaves no seed. -/
theorem handedOff_seedGone (s : State) : SeedGone (zeroize (emitSeeded s)).flagsHandedOff :=
  ⟨fun _ => regByte_of_zero_rows rfl rfl rfl, flagsHandedOff_flag _ .smpV, flagsHandedOff_flag _ .rawV,
    flagsHandedOff_flag _ .seedV⟩

/-- Settles O42: HANDOFF and CREATE end in a HANDOFF stage, which leaves `handedOff_seedGone`. -/
theorem seedIsGoneAfterHandoff : Obligations.SeedIsGoneAfterHandoff := by
  intro s i hr hi
  have hcreate : ∀ k, CanSample k s → ∃ u, exec (.create k) s = .next u ∧ SeedGone u := fun k hk =>
    ⟨_, exec_create hr hk, handedOff_seedGone (afterSeedgen k s)⟩
  rcases hi with ⟨rfl, hv⟩ | rfl | ⟨rfl, hclk⟩
  · exact ⟨_, exec_command_ok (c := .handoff) hr (stageHandoff_ok.mpr ⟨hv, rfl⟩), handedOff_seedGone s⟩
  · exact hcreate .address nofun
  · exact hcreate .time fun _ => hclk

end Sys2Proof.Machine
